-- ==== Sys2Proof/Word.lean ====
section
/-! DEFINITION. The word types of the machine: data width 8 bits, address width 16 bits (00_scope R6, R8). -/

namespace Sys2Proof

/-- A byte: data, a register, an opcode (00_scope R6). All byte arithmetic wraps mod 256 (R8). -/
abbrev Byte := BitVec 8

/-- An address, or the program counter (00_scope R6). All address arithmetic wraps mod 65536 (10_state R24). -/
abbrev Addr := BitVec 16

end Sys2Proof
end

