-- ==== Sys2Proof/Syntax.lean ====
section
/-! DEFINITION. The instruction set as syntax: one constructor for each row of spec/opcode_table.json (one row for
each opcode byte, 30_encoding R110, R114), its addressing mode (R113) and its length (R111).

The opcode byte alone selects the instruction, and the operand bytes are read by the instruction while it runs, as
bus transactions in the order its rule lists (40_addressing R141). So an `Instr` carries no operand (log 1); `Code` is
an instruction together with its operand bytes as they stand in memory (30_encoding R112). -/

namespace Sys2Proof

/-- The thirteen addressing modes of 30_encoding R113. -/
inductive Mode where
  | imp | acc | imm | zp | zpx | zpy | abs | abx | aby | ind | izx | izy | rel
deriving DecidableEq, Repr

/-- The number of bytes of an instruction of each mode (30_encoding R111). -/
def Mode.length : Mode → Nat
  | .imp | .acc => 1
  | .imm | .zp | .zpx | .zpy | .izx | .izy | .rel => 2
  | .abs | .abx | .aby | .ind => 3

/-- The instructions, in the order of their opcode bytes `0x00` to `0xFF`. A name is the mnemonic and the mode; where
several opcode bytes have the same mnemonic and mode, the opcode byte is part of the name. -/
inductive Instr where
  /-- `00` BRK (R330) -/
  | brk
  /-- `01` ORA ($nn,X) (R220) -/
  | oraIzx
  /-- `02` JAM (R372) -/
  | jam02
  /-- `03` SLO ($nn,X) (R341) -/
  | sloIzx
  /-- `04` NOP $nn (R357) -/
  | nop04
  /-- `05` ORA $nn (R220) -/
  | oraZp
  /-- `06` ASL $nn (R250) -/
  | aslZp
  /-- `07` SLO $nn (R341) -/
  | sloZp
  /-- `08` PHP (R312) -/
  | php
  /-- `09` ORA #$nn (R220) -/
  | oraImm
  /-- `0A` ASL A (R250) -/
  | aslAcc
  /-- `0B` ANC #$nn (R349) -/
  | anc0B
  /-- `0C` NOP $nnnn (R359) -/
  | nop0C
  /-- `0D` ORA $nnnn (R220) -/
  | oraAbs
  /-- `0E` ASL $nnnn (R250) -/
  | aslAbs
  /-- `0F` SLO $nnnn (R341) -/
  | sloAbs
  /-- `10` BPL $nnnn (rel) (R281) -/
  | bpl
  /-- `11` ORA ($nn),Y (R220) -/
  | oraIzy
  /-- `12` JAM (R372) -/
  | jam12
  /-- `13` SLO ($nn),Y (R341) -/
  | sloIzy
  /-- `14` NOP $nn,X (R358) -/
  | nop14
  /-- `15` ORA $nn,X (R220) -/
  | oraZpx
  /-- `16` ASL $nn,X (R250) -/
  | aslZpx
  /-- `17` SLO $nn,X (R341) -/
  | sloZpx
  /-- `18` CLC (R314) -/
  | clc
  /-- `19` ORA $nnnn,Y (R220) -/
  | oraAby
  /-- `1A` NOP (R355) -/
  | nop1A
  /-- `1B` SLO $nnnn,Y (R341) -/
  | sloAby
  /-- `1C` NOP $nnnn,X (R360) -/
  | nop1C
  /-- `1D` ORA $nnnn,X (R220) -/
  | oraAbx
  /-- `1E` ASL $nnnn,X (R250) -/
  | aslAbx
  /-- `1F` SLO $nnnn,X (R341) -/
  | sloAbx
  /-- `20` JSR $nnnn (R292) -/
  | jsr
  /-- `21` AND ($nn,X) (R221) -/
  | andIzx
  /-- `22` JAM (R372) -/
  | jam22
  /-- `23` RLA ($nn,X) (R342) -/
  | rlaIzx
  /-- `24` BIT $nn (R228) -/
  | bitZp
  /-- `25` AND $nn (R221) -/
  | andZp
  /-- `26` ROL $nn (R252) -/
  | rolZp
  /-- `27` RLA $nn (R342) -/
  | rlaZp
  /-- `28` PLP (R313) -/
  | plp
  /-- `29` AND #$nn (R221) -/
  | andImm
  /-- `2A` ROL A (R252) -/
  | rolAcc
  /-- `2B` ANC #$nn (R349) -/
  | anc2B
  /-- `2C` BIT $nnnn (R228) -/
  | bitAbs
  /-- `2D` AND $nnnn (R221) -/
  | andAbs
  /-- `2E` ROL $nnnn (R252) -/
  | rolAbs
  /-- `2F` RLA $nnnn (R342) -/
  | rlaAbs
  /-- `30` BMI $nnnn (rel) (R282) -/
  | bmi
  /-- `31` AND ($nn),Y (R221) -/
  | andIzy
  /-- `32` JAM (R372) -/
  | jam32
  /-- `33` RLA ($nn),Y (R342) -/
  | rlaIzy
  /-- `34` NOP $nn,X (R358) -/
  | nop34
  /-- `35` AND $nn,X (R221) -/
  | andZpx
  /-- `36` ROL $nn,X (R252) -/
  | rolZpx
  /-- `37` RLA $nn,X (R342) -/
  | rlaZpx
  /-- `38` SEC (R315) -/
  | sec
  /-- `39` AND $nnnn,Y (R221) -/
  | andAby
  /-- `3A` NOP (R355) -/
  | nop3A
  /-- `3B` RLA $nnnn,Y (R342) -/
  | rlaAby
  /-- `3C` NOP $nnnn,X (R360) -/
  | nop3C
  /-- `3D` AND $nnnn,X (R221) -/
  | andAbx
  /-- `3E` ROL $nnnn,X (R252) -/
  | rolAbx
  /-- `3F` RLA $nnnn,X (R342) -/
  | rlaAbx
  /-- `40` RTI (R331) -/
  | rti
  /-- `41` EOR ($nn,X) (R222) -/
  | eorIzx
  /-- `42` JAM (R372) -/
  | jam42
  /-- `43` SRE ($nn,X) (R343) -/
  | sreIzx
  /-- `44` NOP $nn (R357) -/
  | nop44
  /-- `45` EOR $nn (R222) -/
  | eorZp
  /-- `46` LSR $nn (R251) -/
  | lsrZp
  /-- `47` SRE $nn (R343) -/
  | sreZp
  /-- `48` PHA (R310) -/
  | pha
  /-- `49` EOR #$nn (R222) -/
  | eorImm
  /-- `4A` LSR A (R251) -/
  | lsrAcc
  /-- `4B` ALR #$nn (R350) -/
  | alrImm
  /-- `4C` JMP $nnnn (R290) -/
  | jmpAbs
  /-- `4D` EOR $nnnn (R222) -/
  | eorAbs
  /-- `4E` LSR $nnnn (R251) -/
  | lsrAbs
  /-- `4F` SRE $nnnn (R343) -/
  | sreAbs
  /-- `50` BVC $nnnn (rel) (R283) -/
  | bvc
  /-- `51` EOR ($nn),Y (R222) -/
  | eorIzy
  /-- `52` JAM (R372) -/
  | jam52
  /-- `53` SRE ($nn),Y (R343) -/
  | sreIzy
  /-- `54` NOP $nn,X (R358) -/
  | nop54
  /-- `55` EOR $nn,X (R222) -/
  | eorZpx
  /-- `56` LSR $nn,X (R251) -/
  | lsrZpx
  /-- `57` SRE $nn,X (R343) -/
  | sreZpx
  /-- `58` CLI (R316) -/
  | cli
  /-- `59` EOR $nnnn,Y (R222) -/
  | eorAby
  /-- `5A` NOP (R355) -/
  | nop5A
  /-- `5B` SRE $nnnn,Y (R343) -/
  | sreAby
  /-- `5C` NOP $nnnn,X (R360) -/
  | nop5C
  /-- `5D` EOR $nnnn,X (R222) -/
  | eorAbx
  /-- `5E` LSR $nnnn,X (R251) -/
  | lsrAbx
  /-- `5F` SRE $nnnn,X (R343) -/
  | sreAbx
  /-- `60` RTS (R293) -/
  | rts
  /-- `61` ADC ($nn,X) (R223) -/
  | adcIzx
  /-- `62` JAM (R372) -/
  | jam62
  /-- `63` RRA ($nn,X) (R344) -/
  | rraIzx
  /-- `64` NOP $nn (R357) -/
  | nop64
  /-- `65` ADC $nn (R223) -/
  | adcZp
  /-- `66` ROR $nn (R253) -/
  | rorZp
  /-- `67` RRA $nn (R344) -/
  | rraZp
  /-- `68` PLA (R311) -/
  | pla
  /-- `69` ADC #$nn (R223) -/
  | adcImm
  /-- `6A` ROR A (R253) -/
  | rorAcc
  /-- `6B` ARR #$nn (R351) -/
  | arrImm
  /-- `6C` JMP ($nnnn) (R291) -/
  | jmpInd
  /-- `6D` ADC $nnnn (R223) -/
  | adcAbs
  /-- `6E` ROR $nnnn (R253) -/
  | rorAbs
  /-- `6F` RRA $nnnn (R344) -/
  | rraAbs
  /-- `70` BVS $nnnn (rel) (R284) -/
  | bvs
  /-- `71` ADC ($nn),Y (R223) -/
  | adcIzy
  /-- `72` JAM (R372) -/
  | jam72
  /-- `73` RRA ($nn),Y (R344) -/
  | rraIzy
  /-- `74` NOP $nn,X (R358) -/
  | nop74
  /-- `75` ADC $nn,X (R223) -/
  | adcZpx
  /-- `76` ROR $nn,X (R253) -/
  | rorZpx
  /-- `77` RRA $nn,X (R344) -/
  | rraZpx
  /-- `78` SEI (R317) -/
  | sei
  /-- `79` ADC $nnnn,Y (R223) -/
  | adcAby
  /-- `7A` NOP (R355) -/
  | nop7A
  /-- `7B` RRA $nnnn,Y (R344) -/
  | rraAby
  /-- `7C` NOP $nnnn,X (R360) -/
  | nop7C
  /-- `7D` ADC $nnnn,X (R223) -/
  | adcAbx
  /-- `7E` ROR $nnnn,X (R253) -/
  | rorAbx
  /-- `7F` RRA $nnnn,X (R344) -/
  | rraAbx
  /-- `80` NOP #$nn (R356) -/
  | nop80
  /-- `81` STA ($nn,X) (R183) -/
  | staIzx
  /-- `82` NOP #$nn (R356) -/
  | nop82
  /-- `83` SAX ($nn,X) (R347) -/
  | saxIzx
  /-- `84` STY $nn (R185) -/
  | styZp
  /-- `85` STA $nn (R183) -/
  | staZp
  /-- `86` STX $nn (R184) -/
  | stxZp
  /-- `87` SAX $nn (R347) -/
  | saxZp
  /-- `88` DEY (R259) -/
  | dey
  /-- `89` NOP #$nn (R356) -/
  | nop89
  /-- `8A` TXA (R188) -/
  | txa
  /-- `8B` ANE #$nn (R370) -/
  | aneImm
  /-- `8C` STY $nnnn (R185) -/
  | styAbs
  /-- `8D` STA $nnnn (R183) -/
  | staAbs
  /-- `8E` STX $nnnn (R184) -/
  | stxAbs
  /-- `8F` SAX $nnnn (R347) -/
  | saxAbs
  /-- `90` BCC $nnnn (rel) (R285) -/
  | bcc
  /-- `91` STA ($nn),Y (R183) -/
  | staIzy
  /-- `92` JAM (R372) -/
  | jam92
  /-- `93` SHA ($nn),Y (R366) -/
  | shaIzy
  /-- `94` STY $nn,X (R185) -/
  | styZpx
  /-- `95` STA $nn,X (R183) -/
  | staZpx
  /-- `96` STX $nn,Y (R184) -/
  | stxZpy
  /-- `97` SAX $nn,Y (R347) -/
  | saxZpy
  /-- `98` TYA (R189) -/
  | tya
  /-- `99` STA $nnnn,Y (R183) -/
  | staAby
  /-- `9A` TXS (R191) -/
  | txs
  /-- `9B` TAS $nnnn,Y (R369) -/
  | tasAby
  /-- `9C` SHY $nnnn,X (R368) -/
  | shyAbx
  /-- `9D` STA $nnnn,X (R183) -/
  | staAbx
  /-- `9E` SHX $nnnn,Y (R367) -/
  | shxAby
  /-- `9F` SHA $nnnn,Y (R366) -/
  | shaAby
  /-- `A0` LDY #$nn (R182) -/
  | ldyImm
  /-- `A1` LDA ($nn,X) (R180) -/
  | ldaIzx
  /-- `A2` LDX #$nn (R181) -/
  | ldxImm
  /-- `A3` LAX ($nn,X) (R348) -/
  | laxIzx
  /-- `A4` LDY $nn (R182) -/
  | ldyZp
  /-- `A5` LDA $nn (R180) -/
  | ldaZp
  /-- `A6` LDX $nn (R181) -/
  | ldxZp
  /-- `A7` LAX $nn (R348) -/
  | laxZp
  /-- `A8` TAY (R187) -/
  | tay
  /-- `A9` LDA #$nn (R180) -/
  | ldaImm
  /-- `AA` TAX (R186) -/
  | tax
  /-- `AB` LXA #$nn (R371) -/
  | lxaImm
  /-- `AC` LDY $nnnn (R182) -/
  | ldyAbs
  /-- `AD` LDA $nnnn (R180) -/
  | ldaAbs
  /-- `AE` LDX $nnnn (R181) -/
  | ldxAbs
  /-- `AF` LAX $nnnn (R348) -/
  | laxAbs
  /-- `B0` BCS $nnnn (rel) (R286) -/
  | bcs
  /-- `B1` LDA ($nn),Y (R180) -/
  | ldaIzy
  /-- `B2` JAM (R372) -/
  | jamB2
  /-- `B3` LAX ($nn),Y (R348) -/
  | laxIzy
  /-- `B4` LDY $nn,X (R182) -/
  | ldyZpx
  /-- `B5` LDA $nn,X (R180) -/
  | ldaZpx
  /-- `B6` LDX $nn,Y (R181) -/
  | ldxZpy
  /-- `B7` LAX $nn,Y (R348) -/
  | laxZpy
  /-- `B8` CLV (R320) -/
  | clv
  /-- `B9` LDA $nnnn,Y (R180) -/
  | ldaAby
  /-- `BA` TSX (R190) -/
  | tsx
  /-- `BB` LAS $nnnn,Y (R353) -/
  | lasAby
  /-- `BC` LDY $nnnn,X (R182) -/
  | ldyAbx
  /-- `BD` LDA $nnnn,X (R180) -/
  | ldaAbx
  /-- `BE` LDX $nnnn,Y (R181) -/
  | ldxAby
  /-- `BF` LAX $nnnn,Y (R348) -/
  | laxAby
  /-- `C0` CPY #$nn (R227) -/
  | cpyImm
  /-- `C1` CMP ($nn,X) (R225) -/
  | cmpIzx
  /-- `C2` NOP #$nn (R356) -/
  | nopC2
  /-- `C3` DCP ($nn,X) (R345) -/
  | dcpIzx
  /-- `C4` CPY $nn (R227) -/
  | cpyZp
  /-- `C5` CMP $nn (R225) -/
  | cmpZp
  /-- `C6` DEC $nn (R255) -/
  | decZp
  /-- `C7` DCP $nn (R345) -/
  | dcpZp
  /-- `C8` INY (R257) -/
  | iny
  /-- `C9` CMP #$nn (R225) -/
  | cmpImm
  /-- `CA` DEX (R258) -/
  | dex
  /-- `CB` SBX #$nn (R352) -/
  | sbxImm
  /-- `CC` CPY $nnnn (R227) -/
  | cpyAbs
  /-- `CD` CMP $nnnn (R225) -/
  | cmpAbs
  /-- `CE` DEC $nnnn (R255) -/
  | decAbs
  /-- `CF` DCP $nnnn (R345) -/
  | dcpAbs
  /-- `D0` BNE $nnnn (rel) (R287) -/
  | bne
  /-- `D1` CMP ($nn),Y (R225) -/
  | cmpIzy
  /-- `D2` JAM (R372) -/
  | jamD2
  /-- `D3` DCP ($nn),Y (R345) -/
  | dcpIzy
  /-- `D4` NOP $nn,X (R358) -/
  | nopD4
  /-- `D5` CMP $nn,X (R225) -/
  | cmpZpx
  /-- `D6` DEC $nn,X (R255) -/
  | decZpx
  /-- `D7` DCP $nn,X (R345) -/
  | dcpZpx
  /-- `D8` CLD (R318) -/
  | cld
  /-- `D9` CMP $nnnn,Y (R225) -/
  | cmpAby
  /-- `DA` NOP (R355) -/
  | nopDA
  /-- `DB` DCP $nnnn,Y (R345) -/
  | dcpAby
  /-- `DC` NOP $nnnn,X (R360) -/
  | nopDC
  /-- `DD` CMP $nnnn,X (R225) -/
  | cmpAbx
  /-- `DE` DEC $nnnn,X (R255) -/
  | decAbx
  /-- `DF` DCP $nnnn,X (R345) -/
  | dcpAbx
  /-- `E0` CPX #$nn (R226) -/
  | cpxImm
  /-- `E1` SBC ($nn,X) (R224) -/
  | sbcIzx
  /-- `E2` NOP #$nn (R356) -/
  | nopE2
  /-- `E3` ISC ($nn,X) (R346) -/
  | iscIzx
  /-- `E4` CPX $nn (R226) -/
  | cpxZp
  /-- `E5` SBC $nn (R224) -/
  | sbcZp
  /-- `E6` INC $nn (R254) -/
  | incZp
  /-- `E7` ISC $nn (R346) -/
  | iscZp
  /-- `E8` INX (R256) -/
  | inx
  /-- `E9` SBC #$nn (R224) -/
  | sbcImm
  /-- `EA` NOP (R321) -/
  | nop
  /-- `EB` SBC #$nn (R354) -/
  | sbcImmEB
  /-- `EC` CPX $nnnn (R226) -/
  | cpxAbs
  /-- `ED` SBC $nnnn (R224) -/
  | sbcAbs
  /-- `EE` INC $nnnn (R254) -/
  | incAbs
  /-- `EF` ISC $nnnn (R346) -/
  | iscAbs
  /-- `F0` BEQ $nnnn (rel) (R288) -/
  | beq
  /-- `F1` SBC ($nn),Y (R224) -/
  | sbcIzy
  /-- `F2` JAM (R372) -/
  | jamF2
  /-- `F3` ISC ($nn),Y (R346) -/
  | iscIzy
  /-- `F4` NOP $nn,X (R358) -/
  | nopF4
  /-- `F5` SBC $nn,X (R224) -/
  | sbcZpx
  /-- `F6` INC $nn,X (R254) -/
  | incZpx
  /-- `F7` ISC $nn,X (R346) -/
  | iscZpx
  /-- `F8` SED (R319) -/
  | sed
  /-- `F9` SBC $nnnn,Y (R224) -/
  | sbcAby
  /-- `FA` NOP (R355) -/
  | nopFA
  /-- `FB` ISC $nnnn,Y (R346) -/
  | iscAby
  /-- `FC` NOP $nnnn,X (R360) -/
  | nopFC
  /-- `FD` SBC $nnnn,X (R224) -/
  | sbcAbx
  /-- `FE` INC $nnnn,X (R254) -/
  | incAbx
  /-- `FF` ISC $nnnn,X (R346) -/
  | iscAbx
deriving DecidableEq, Repr

/-- The addressing mode of each opcode-table row (`source_fields.mode`). -/
def Instr.mode : Instr → Mode
  | .brk | .jam02 | .php | .jam12 | .clc | .nop1A | .jam22 | .plp | .jam32 | .sec | .nop3A | .rti | .jam42 | .pha
    | .jam52 | .cli | .nop5A | .rts | .jam62 | .pla | .jam72 | .sei | .nop7A | .dey | .txa | .jam92 | .tya | .txs |
    .tay | .tax | .jamB2 | .clv | .tsx | .iny | .dex | .jamD2 | .cld | .nopDA | .inx | .nop | .jamF2 | .sed | .nopFA
    => .imp
  | .oraIzx | .sloIzx | .andIzx | .rlaIzx | .eorIzx | .sreIzx | .adcIzx | .rraIzx | .staIzx | .saxIzx | .ldaIzx |
    .laxIzx | .cmpIzx | .dcpIzx | .sbcIzx | .iscIzx => .izx
  | .nop04 | .oraZp | .aslZp | .sloZp | .bitZp | .andZp | .rolZp | .rlaZp | .nop44 | .eorZp | .lsrZp | .sreZp |
    .nop64 | .adcZp | .rorZp | .rraZp | .styZp | .staZp | .stxZp | .saxZp | .ldyZp | .ldaZp | .ldxZp | .laxZp |
    .cpyZp | .cmpZp | .decZp | .dcpZp | .cpxZp | .sbcZp | .incZp | .iscZp => .zp
  | .oraImm | .anc0B | .andImm | .anc2B | .eorImm | .alrImm | .adcImm | .arrImm | .nop80 | .nop82 | .nop89 |
    .aneImm | .ldyImm | .ldxImm | .ldaImm | .lxaImm | .cpyImm | .nopC2 | .cmpImm | .sbxImm | .cpxImm | .nopE2 |
    .sbcImm | .sbcImmEB => .imm
  | .aslAcc | .rolAcc | .lsrAcc | .rorAcc => .acc
  | .nop0C | .oraAbs | .aslAbs | .sloAbs | .jsr | .bitAbs | .andAbs | .rolAbs | .rlaAbs | .jmpAbs | .eorAbs |
    .lsrAbs | .sreAbs | .adcAbs | .rorAbs | .rraAbs | .styAbs | .staAbs | .stxAbs | .saxAbs | .ldyAbs | .ldaAbs |
    .ldxAbs | .laxAbs | .cpyAbs | .cmpAbs | .decAbs | .dcpAbs | .cpxAbs | .sbcAbs | .incAbs | .iscAbs => .abs
  | .bpl | .bmi | .bvc | .bvs | .bcc | .bcs | .bne | .beq => .rel
  | .oraIzy | .sloIzy | .andIzy | .rlaIzy | .eorIzy | .sreIzy | .adcIzy | .rraIzy | .staIzy | .shaIzy | .ldaIzy |
    .laxIzy | .cmpIzy | .dcpIzy | .sbcIzy | .iscIzy => .izy
  | .nop14 | .oraZpx | .aslZpx | .sloZpx | .nop34 | .andZpx | .rolZpx | .rlaZpx | .nop54 | .eorZpx | .lsrZpx |
    .sreZpx | .nop74 | .adcZpx | .rorZpx | .rraZpx | .styZpx | .staZpx | .ldyZpx | .ldaZpx | .nopD4 | .cmpZpx |
    .decZpx | .dcpZpx | .nopF4 | .sbcZpx | .incZpx | .iscZpx => .zpx
  | .oraAby | .sloAby | .andAby | .rlaAby | .eorAby | .sreAby | .adcAby | .rraAby | .staAby | .tasAby | .shxAby |
    .shaAby | .ldaAby | .lasAby | .ldxAby | .laxAby | .cmpAby | .dcpAby | .sbcAby | .iscAby => .aby
  | .nop1C | .oraAbx | .aslAbx | .sloAbx | .nop3C | .andAbx | .rolAbx | .rlaAbx | .nop5C | .eorAbx | .lsrAbx |
    .sreAbx | .nop7C | .adcAbx | .rorAbx | .rraAbx | .shyAbx | .staAbx | .ldyAbx | .ldaAbx | .nopDC | .cmpAbx |
    .decAbx | .dcpAbx | .nopFC | .sbcAbx | .incAbx | .iscAbx => .abx
  | .jmpInd => .ind
  | .stxZpy | .saxZpy | .ldxZpy | .laxZpy => .zpy

/-- The length in bytes, a function of the opcode byte alone (30_encoding R111). -/
def Instr.length (i : Instr) : Nat := i.mode.length

/-- An instruction with its operand bytes in address order: `d8`, or `lo8` then `hi8` (30_encoding R112). -/
structure Code where
  instr    : Instr
  operands : List Byte
deriving DecidableEq, Repr

end Sys2Proof
end

