-- ==== Sys2Proof/WellFormed.lean ====
section
/-! DEFINITION. Which instruction words are well formed: an instruction has exactly the operand bytes of its format
F1, F2 or F3 (30_encoding R111, R112). Operand bytes have no reserved values (93_implementation_defined U15). -/

namespace Sys2Proof

/-- The number of operand bytes is that of the instruction's format (30_encoding R111). -/
def Code.wf (c : Code) : Bool := c.operands.length + 1 == c.instr.length

end Sys2Proof
end

