-- ==== Sys2Proof/Decode.lean ====
section
/-! DEFINITION. The decoder, total on any bytes, and after it the encoder (30_encoding R110 to R115). -/

namespace Sys2Proof

/-- Why bytes are no instruction. Every opcode byte decodes (30_encoding R117), so the only ground is that the bytes
end before the instruction does. -/
inductive DecodeError where
  /-- there is no byte at all -/
  | noOpcode
  /-- the operand bytes of `i` are cut short -/
  | truncated (i : Instr)
deriving DecidableEq, Repr

/-- The opcode matrix of 30_encoding R115: one row for each high nibble, in the order of the low nibble. -/
def opcodeMatrix : List (List Instr) :=
  [[.brk, .oraIzx, .jam02, .sloIzx, .nop04, .oraZp, .aslZp, .sloZp, .php, .oraImm, .aslAcc, .anc0B, .nop0C, .oraAbs, .aslAbs, .sloAbs],
   [.bpl, .oraIzy, .jam12, .sloIzy, .nop14, .oraZpx, .aslZpx, .sloZpx, .clc, .oraAby, .nop1A, .sloAby, .nop1C, .oraAbx, .aslAbx, .sloAbx],
   [.jsr, .andIzx, .jam22, .rlaIzx, .bitZp, .andZp, .rolZp, .rlaZp, .plp, .andImm, .rolAcc, .anc2B, .bitAbs, .andAbs, .rolAbs, .rlaAbs],
   [.bmi, .andIzy, .jam32, .rlaIzy, .nop34, .andZpx, .rolZpx, .rlaZpx, .sec, .andAby, .nop3A, .rlaAby, .nop3C, .andAbx, .rolAbx, .rlaAbx],
   [.rti, .eorIzx, .jam42, .sreIzx, .nop44, .eorZp, .lsrZp, .sreZp, .pha, .eorImm, .lsrAcc, .alrImm, .jmpAbs, .eorAbs, .lsrAbs, .sreAbs],
   [.bvc, .eorIzy, .jam52, .sreIzy, .nop54, .eorZpx, .lsrZpx, .sreZpx, .cli, .eorAby, .nop5A, .sreAby, .nop5C, .eorAbx, .lsrAbx, .sreAbx],
   [.rts, .adcIzx, .jam62, .rraIzx, .nop64, .adcZp, .rorZp, .rraZp, .pla, .adcImm, .rorAcc, .arrImm, .jmpInd, .adcAbs, .rorAbs, .rraAbs],
   [.bvs, .adcIzy, .jam72, .rraIzy, .nop74, .adcZpx, .rorZpx, .rraZpx, .sei, .adcAby, .nop7A, .rraAby, .nop7C, .adcAbx, .rorAbx, .rraAbx],
   [.nop80, .staIzx, .nop82, .saxIzx, .styZp, .staZp, .stxZp, .saxZp, .dey, .nop89, .txa, .aneImm, .styAbs, .staAbs, .stxAbs, .saxAbs],
   [.bcc, .staIzy, .jam92, .shaIzy, .styZpx, .staZpx, .stxZpy, .saxZpy, .tya, .staAby, .txs, .tasAby, .shyAbx, .staAbx, .shxAby, .shaAby],
   [.ldyImm, .ldaIzx, .ldxImm, .laxIzx, .ldyZp, .ldaZp, .ldxZp, .laxZp, .tay, .ldaImm, .tax, .lxaImm, .ldyAbs, .ldaAbs, .ldxAbs, .laxAbs],
   [.bcs, .ldaIzy, .jamB2, .laxIzy, .ldyZpx, .ldaZpx, .ldxZpy, .laxZpy, .clv, .ldaAby, .tsx, .lasAby, .ldyAbx, .ldaAbx, .ldxAby, .laxAby],
   [.cpyImm, .cmpIzx, .nopC2, .dcpIzx, .cpyZp, .cmpZp, .decZp, .dcpZp, .iny, .cmpImm, .dex, .sbxImm, .cpyAbs, .cmpAbs, .decAbs, .dcpAbs],
   [.bne, .cmpIzy, .jamD2, .dcpIzy, .nopD4, .cmpZpx, .decZpx, .dcpZpx, .cld, .cmpAby, .nopDA, .dcpAby, .nopDC, .cmpAbx, .decAbx, .dcpAbx],
   [.cpxImm, .sbcIzx, .nopE2, .iscIzx, .cpxZp, .sbcZp, .incZp, .iscZp, .inx, .sbcImm, .nop, .sbcImmEB, .cpxAbs, .sbcAbs, .incAbs, .iscAbs],
   [.beq, .sbcIzy, .jamF2, .iscIzy, .nopF4, .sbcZpx, .incZpx, .iscZpx, .sed, .sbcAby, .nopFA, .iscAby, .nopFC, .sbcAbx, .incAbx, .iscAbx]]

/-- The instruction an opcode byte selects (30_encoding R110, R115). The matrix has an entry for every byte. -/
def decodeOpcode (b : Byte) : Instr := ((opcodeMatrix.getD (b.toNat / 16) []).getD (b.toNat % 16) .nop)

/-- Reads one instruction from the front of `bytes` and answers it with the bytes that are left (30_encoding R111,
R118). -/
def decode (bytes : List Byte) : Except DecodeError (Code × List Byte) :=
  match bytes with
  | [] => .error .noOpcode
  | b :: rest =>
    let i := decodeOpcode b
    if rest.length + 1 < i.length then .error (.truncated i)
    else .ok (⟨i, rest.take (i.length - 1)⟩, rest.drop (i.length - 1))

/-- The opcode byte of each instruction (`match` of its opcode-table row). -/
def Instr.opcode : Instr → Byte
  | .brk => 0x00
  | .oraIzx => 0x01
  | .jam02 => 0x02
  | .sloIzx => 0x03
  | .nop04 => 0x04
  | .oraZp => 0x05
  | .aslZp => 0x06
  | .sloZp => 0x07
  | .php => 0x08
  | .oraImm => 0x09
  | .aslAcc => 0x0A
  | .anc0B => 0x0B
  | .nop0C => 0x0C
  | .oraAbs => 0x0D
  | .aslAbs => 0x0E
  | .sloAbs => 0x0F
  | .bpl => 0x10
  | .oraIzy => 0x11
  | .jam12 => 0x12
  | .sloIzy => 0x13
  | .nop14 => 0x14
  | .oraZpx => 0x15
  | .aslZpx => 0x16
  | .sloZpx => 0x17
  | .clc => 0x18
  | .oraAby => 0x19
  | .nop1A => 0x1A
  | .sloAby => 0x1B
  | .nop1C => 0x1C
  | .oraAbx => 0x1D
  | .aslAbx => 0x1E
  | .sloAbx => 0x1F
  | .jsr => 0x20
  | .andIzx => 0x21
  | .jam22 => 0x22
  | .rlaIzx => 0x23
  | .bitZp => 0x24
  | .andZp => 0x25
  | .rolZp => 0x26
  | .rlaZp => 0x27
  | .plp => 0x28
  | .andImm => 0x29
  | .rolAcc => 0x2A
  | .anc2B => 0x2B
  | .bitAbs => 0x2C
  | .andAbs => 0x2D
  | .rolAbs => 0x2E
  | .rlaAbs => 0x2F
  | .bmi => 0x30
  | .andIzy => 0x31
  | .jam32 => 0x32
  | .rlaIzy => 0x33
  | .nop34 => 0x34
  | .andZpx => 0x35
  | .rolZpx => 0x36
  | .rlaZpx => 0x37
  | .sec => 0x38
  | .andAby => 0x39
  | .nop3A => 0x3A
  | .rlaAby => 0x3B
  | .nop3C => 0x3C
  | .andAbx => 0x3D
  | .rolAbx => 0x3E
  | .rlaAbx => 0x3F
  | .rti => 0x40
  | .eorIzx => 0x41
  | .jam42 => 0x42
  | .sreIzx => 0x43
  | .nop44 => 0x44
  | .eorZp => 0x45
  | .lsrZp => 0x46
  | .sreZp => 0x47
  | .pha => 0x48
  | .eorImm => 0x49
  | .lsrAcc => 0x4A
  | .alrImm => 0x4B
  | .jmpAbs => 0x4C
  | .eorAbs => 0x4D
  | .lsrAbs => 0x4E
  | .sreAbs => 0x4F
  | .bvc => 0x50
  | .eorIzy => 0x51
  | .jam52 => 0x52
  | .sreIzy => 0x53
  | .nop54 => 0x54
  | .eorZpx => 0x55
  | .lsrZpx => 0x56
  | .sreZpx => 0x57
  | .cli => 0x58
  | .eorAby => 0x59
  | .nop5A => 0x5A
  | .sreAby => 0x5B
  | .nop5C => 0x5C
  | .eorAbx => 0x5D
  | .lsrAbx => 0x5E
  | .sreAbx => 0x5F
  | .rts => 0x60
  | .adcIzx => 0x61
  | .jam62 => 0x62
  | .rraIzx => 0x63
  | .nop64 => 0x64
  | .adcZp => 0x65
  | .rorZp => 0x66
  | .rraZp => 0x67
  | .pla => 0x68
  | .adcImm => 0x69
  | .rorAcc => 0x6A
  | .arrImm => 0x6B
  | .jmpInd => 0x6C
  | .adcAbs => 0x6D
  | .rorAbs => 0x6E
  | .rraAbs => 0x6F
  | .bvs => 0x70
  | .adcIzy => 0x71
  | .jam72 => 0x72
  | .rraIzy => 0x73
  | .nop74 => 0x74
  | .adcZpx => 0x75
  | .rorZpx => 0x76
  | .rraZpx => 0x77
  | .sei => 0x78
  | .adcAby => 0x79
  | .nop7A => 0x7A
  | .rraAby => 0x7B
  | .nop7C => 0x7C
  | .adcAbx => 0x7D
  | .rorAbx => 0x7E
  | .rraAbx => 0x7F
  | .nop80 => 0x80
  | .staIzx => 0x81
  | .nop82 => 0x82
  | .saxIzx => 0x83
  | .styZp => 0x84
  | .staZp => 0x85
  | .stxZp => 0x86
  | .saxZp => 0x87
  | .dey => 0x88
  | .nop89 => 0x89
  | .txa => 0x8A
  | .aneImm => 0x8B
  | .styAbs => 0x8C
  | .staAbs => 0x8D
  | .stxAbs => 0x8E
  | .saxAbs => 0x8F
  | .bcc => 0x90
  | .staIzy => 0x91
  | .jam92 => 0x92
  | .shaIzy => 0x93
  | .styZpx => 0x94
  | .staZpx => 0x95
  | .stxZpy => 0x96
  | .saxZpy => 0x97
  | .tya => 0x98
  | .staAby => 0x99
  | .txs => 0x9A
  | .tasAby => 0x9B
  | .shyAbx => 0x9C
  | .staAbx => 0x9D
  | .shxAby => 0x9E
  | .shaAby => 0x9F
  | .ldyImm => 0xA0
  | .ldaIzx => 0xA1
  | .ldxImm => 0xA2
  | .laxIzx => 0xA3
  | .ldyZp => 0xA4
  | .ldaZp => 0xA5
  | .ldxZp => 0xA6
  | .laxZp => 0xA7
  | .tay => 0xA8
  | .ldaImm => 0xA9
  | .tax => 0xAA
  | .lxaImm => 0xAB
  | .ldyAbs => 0xAC
  | .ldaAbs => 0xAD
  | .ldxAbs => 0xAE
  | .laxAbs => 0xAF
  | .bcs => 0xB0
  | .ldaIzy => 0xB1
  | .jamB2 => 0xB2
  | .laxIzy => 0xB3
  | .ldyZpx => 0xB4
  | .ldaZpx => 0xB5
  | .ldxZpy => 0xB6
  | .laxZpy => 0xB7
  | .clv => 0xB8
  | .ldaAby => 0xB9
  | .tsx => 0xBA
  | .lasAby => 0xBB
  | .ldyAbx => 0xBC
  | .ldaAbx => 0xBD
  | .ldxAby => 0xBE
  | .laxAby => 0xBF
  | .cpyImm => 0xC0
  | .cmpIzx => 0xC1
  | .nopC2 => 0xC2
  | .dcpIzx => 0xC3
  | .cpyZp => 0xC4
  | .cmpZp => 0xC5
  | .decZp => 0xC6
  | .dcpZp => 0xC7
  | .iny => 0xC8
  | .cmpImm => 0xC9
  | .dex => 0xCA
  | .sbxImm => 0xCB
  | .cpyAbs => 0xCC
  | .cmpAbs => 0xCD
  | .decAbs => 0xCE
  | .dcpAbs => 0xCF
  | .bne => 0xD0
  | .cmpIzy => 0xD1
  | .jamD2 => 0xD2
  | .dcpIzy => 0xD3
  | .nopD4 => 0xD4
  | .cmpZpx => 0xD5
  | .decZpx => 0xD6
  | .dcpZpx => 0xD7
  | .cld => 0xD8
  | .cmpAby => 0xD9
  | .nopDA => 0xDA
  | .dcpAby => 0xDB
  | .nopDC => 0xDC
  | .cmpAbx => 0xDD
  | .decAbx => 0xDE
  | .dcpAbx => 0xDF
  | .cpxImm => 0xE0
  | .sbcIzx => 0xE1
  | .nopE2 => 0xE2
  | .iscIzx => 0xE3
  | .cpxZp => 0xE4
  | .sbcZp => 0xE5
  | .incZp => 0xE6
  | .iscZp => 0xE7
  | .inx => 0xE8
  | .sbcImm => 0xE9
  | .nop => 0xEA
  | .sbcImmEB => 0xEB
  | .cpxAbs => 0xEC
  | .sbcAbs => 0xED
  | .incAbs => 0xEE
  | .iscAbs => 0xEF
  | .beq => 0xF0
  | .sbcIzy => 0xF1
  | .jamF2 => 0xF2
  | .iscIzy => 0xF3
  | .nopF4 => 0xF4
  | .sbcZpx => 0xF5
  | .incZpx => 0xF6
  | .iscZpx => 0xF7
  | .sed => 0xF8
  | .sbcAby => 0xF9
  | .nopFA => 0xFA
  | .iscAby => 0xFB
  | .nopFC => 0xFC
  | .sbcAbx => 0xFD
  | .incAbx => 0xFE
  | .iscAbx => 0xFF

/-- The bytes of an instruction in address order (30_encoding R112). -/
def encode (c : Code) : List Byte := c.instr.opcode :: c.operands

/-- The `n` bytes of the number `w`, the least significant byte first: byte `k` is bits `8k+7 .. 8k`, as
spec/opcode_table.json numbers an instruction's bits (30_encoding R112). -/
def bytesOfWord : Nat → Nat → List Byte
  | 0, _ => []
  | n + 1, w => BitVec.ofNat 8 w :: bytesOfWord n (w / 256)

/-- The three bytes (the longest instruction) of a table word of `nbits` bits; every bit above `nbits` is 0. -/
def tableBytes (nbits w : Nat) : List Byte := bytesOfWord 3 (w % 2 ^ nbits)

/-- The instruction the decoder reads from a table word. -/
def decodeTableWord (nbits w : Nat) : Option Instr :=
  match decode (tableBytes nbits w) with
  | .ok (c, _) => some c.instr
  | .error _ => none

end Sys2Proof
end

