-- ==== Sys2Proof/Config.lean ====
section
/-! DEFINITION. The implementation parameters of 00_scope R7 as plain data (a State carries one `Config`, so that a
claim about every state holds for every value of every parameter), and the free values. -/

namespace Sys2Proof

/-- The four acceleration levels, in the order of 10_state R35. -/
inductive AccelLevel where
  | allExternal
  | readInternalWriteExternal
  | readFastInternalWriteExternal
  | allFastInternal
deriving DecidableEq, Repr

/-- An access policy is one of the same four values (20_memory R62). -/
abbrev AccessPolicy := AccelLevel

/-- The four run modes of the execution scheduler (10_state R36, 60_exceptions R441). -/
inductive RunMode where
  | waiting
  | singleStep
  | running
  | resetting
deriving DecidableEq, Repr

/-- What a read in the device window returns (20_memory R71, `DEV_READ_SOURCE`). -/
inductive DevReadSource where
  | shadow
  | dataIn
deriving DecidableEq, Repr

/-- What opcode `0xAB` does (46_illegal R371, `LXA_BEHAVIOUR`). -/
inductive LxaBehaviour where
  | nop2
  | laxImm
deriving DecidableEq, Repr

/-- `sync_in_running` (20_memory R74): on which opcode fetches SYNC is asserted where the document leaves it open.
`unspecified` makes the bit a free value at every fetch; it covers every predicate (log 16). -/
inductive SyncPolicy where
  | always
  | never
  | unspecified
deriving DecidableEq, Repr

/-- One dummy read of the reset sequence (`reset_dummy_addr(i)`, 60_exceptions R412): at the old `PC`, at
`STACK_BASE | (SP - k)` with the old `SP`, or at a fixed address. -/
inductive ResetRead where
  | atPc
  | atStack (k : Byte)
  | atAddr (a : Addr)
deriving DecidableEq, Repr

/-- An inclusive address range. -/
structure Window where
  lo : Addr
  hi : Addr
deriving DecidableEq, Repr

/-- The parameters of 00_scope R7, each under its own name. -/
structure Config where
  /-- `STACK_BASE` -/
  stackBase : Addr
  /-- `VEC_NMI` -/
  vecNmi : Addr
  /-- `VEC_RESET` -/
  vecReset : Addr
  /-- `VEC_IRQ` -/
  vecIrq : Addr
  /-- `RESET_FLAGS` (OPEN) -/
  resetFlags : Byte
  /-- `N_RESET_DUMMY` and `reset_dummy_addr` (OPEN): the dummy reads, in order -/
  resetDummies : List ResetRead
  /-- `MODE_AFTER_RESET` -/
  modeAfterReset : RunMode
  /-- `ROM_BASE`; the ROM window ends at `0xFFFF` -/
  romBase : Addr
  /-- `DEV_LO` -/
  devLo : Addr
  /-- `DEV_HI` -/
  devHi : Addr
  /-- `DYN_WINDOWS` -/
  dynWindows : List Window
  /-- `KEY_ADDR` -/
  keyAddr : Addr
  /-- `KEY_SEQ[0]` (OPEN) -/
  key0 : Byte
  /-- `KEY_SEQ[1]` (OPEN) -/
  key1 : Byte
  /-- `KEY_SEQ[2]` (OPEN) -/
  key2 : Byte
  /-- `KEY_SEQ[3]` (OPEN) -/
  key3 : Byte
  /-- `SELECTOR` (OPEN): the first pair whose byte matches gives the level; no pair means none -/
  selector : List (Byte × AccelLevel)
  /-- `MATCHER_ENABLED` (OPEN) -/
  matcherEnabled : Bool
  /-- `DEV_READ_SOURCE` -/
  devReadSource : DevReadSource
  /-- `ACCEL_INIT` (OPEN) -/
  accelInit : AccelLevel
  /-- `LXA_BEHAVIOUR` -/
  lxa : LxaBehaviour
  /-- `sync_in_running` (OPEN) -/
  syncInRunning : SyncPolicy
deriving DecidableEq, Repr

/-- The defaults of 00_scope R7; for the OPEN parameters, the values of log 12 to 16 (DESIGN CHOICE, unsafe). -/
def Config.default : Config where
  stackBase := 0x0100
  vecNmi := 0xFFFA
  vecReset := 0xFFFC
  vecIrq := 0xFFFE
  resetFlags := 0x34
  resetDummies := [.atPc, .atPc, .atStack 0, .atStack 1, .atStack 2]
  modeAfterReset := .running
  romBase := 0xD000
  devLo := 0xC000
  devHi := 0xCFFF
  dynWindows := [⟨0x0000, 0xBFFF⟩]
  keyAddr := 0xC000
  key0 := 0
  key1 := 0
  key2 := 0
  key3 := 0
  selector := []
  matcherEnabled := false
  devReadSource := .shadow
  accelInit := .allExternal
  lxa := .nop2
  syncInRunning := .unspecified

/-- The three kinds of window do not overlap, so that each address lies in at most one (20_memory R64). -/
def Config.windowsDisjoint (c : Config) : Bool :=
  decide (c.devHi < c.romBase) &&
    c.dynWindows.all (fun w => decide (w.hi < c.romBase) && (decide (w.hi < c.devLo) || decide (c.devHi < w.lo)))

/-- A machine of the usual kind. `RESET_FLAGS` has bits 5 and 2 set: the spec requires it (00_scope R7, 10_state R46).
That the windows do not overlap and that the mode after a reset is not `Resetting` again is the MODEL's restriction:
DESIGN CHOICE, safe (log 31); the spec states no such bound, and no step and no statement assumes this predicate. -/
def Config.wf (c : Config) : Bool :=
  c.resetFlags.getLsbD 5 && c.resetFlags.getLsbD 2 && c.windowsDisjoint && decide (c.modeAfterReset ≠ .resetting)

/-- FREE VALUE (log 22): the `n`-th byte the spec leaves unspecified (10_state R47, 46_illegal R351). It has no
body, so nothing can be proved about its value. -/
opaque Config.freeByte : Nat → Byte

/-- FREE VALUE (log 16): whether SYNC is asserted on the `n`-th opcode fetch for which the document leaves it open
(20_memory R74). -/
opaque Config.freeSync : Nat → Bool

end Sys2Proof
end

