-- ==== Sys2Proof/Machine/State.lean ====
section
/-! DEFINITION. The state of the CORE as plain data (10_state R20 to R45), the inputs that its environment has in
store for it, its outputs, and the state right after reset (10_state R46, 70_reset_and_hazards R466).

The environment is the bus partner (20_memory R75) and the host front-end (60_exceptions R446). What they will do is
input, and it stands in State as lists the step reads: a claim about every state holds for whatever they do. -/

namespace Sys2Proof.Machine

open Sys2Proof

/-- Bytes by address, in ONE canonical form (`Memory.wf`): addresses strictly rising, no entry equal to what an
unlisted address reads as, which is 0x00 (log 5, DESIGN CHOICE, unsafe). -/
abbrev Memory := List Host.Cell

/-- The register file (10_state R20 to R27). -/
structure Cpu where
  /-- accumulator -/
  a : Byte
  /-- index register X -/
  x : Byte
  /-- index register Y -/
  y : Byte
  /-- stack pointer, the low byte of an address in the stack page (R22) -/
  sp : Byte
  /-- flags: bit 0 C, 1 Z, 2 I, 3 D, 4 B, 5 always 1, 6 V, 7 N (R25) -/
  p : Byte
  /-- program counter; while an instruction runs, the address of its opcode byte (R23) -/
  pc : Addr
deriving DecidableEq, Repr

/-- One atomic snapshot of the inputs (10_state R39, 20_memory R77); levels are logical, true = active (R61). -/
structure Sample where
  dataIn : Byte
  ready : Bool
  irq : Bool
  nmi : Bool
  reset : Bool
deriving DecidableEq, Repr

/-- The levels of the four input lines (20_memory R61). -/
structure Lines where
  ready : Bool
  irq : Bool
  nmi : Bool
  reset : Bool
deriving DecidableEq, Repr

/-- The three levels a poll obtains (60_exceptions R402). -/
structure Levels where
  resetL : Bool
  nmiL : Bool
  irqL : Bool
deriving DecidableEq, Repr

/-- What the bus partner will answer (20_memory R75; the MODEL's own field, log 6): `samples` are the answers at the
next rising edges, any data and any levels; when they are used up the partner is a memory (R76) whose contents are
`mem`, with the constant levels `lines`. -/
structure Partner where
  samples : List Sample
  mem : Memory
  lines : Lines
deriving DecidableEq, Repr

/-- One call of `readByte` or `writeByte` (00_scope R10). A call with `onBus` is one bus transaction, the event
`BusRead(addr, sync)` or `BusWrite(addr, value)` of 20_memory R75; a call without it took the fast path (R67). -/
inductive Access where
  /-- `fetch`: the call is `MemFetch`; `sync`: SYNC was asserted in the transaction -/
  | read (addr : Addr) (fetch onBus sync : Bool)
  | write (addr : Addr) (value : Byte) (onBus : Bool)
deriving DecidableEq, Repr

/-- The bus unit: shadow memory, acceleration level, key-sequence matcher, input snapshot (10_state R35, R38, R39,
R41, R45) with the partner beyond it and the history of accesses. -/
structure Bus where
  /-- the shadow memory (R38) -/
  shadow : Memory
  /-- the acceleration level (R35) -/
  accel : AccelLevel
  /-- how many key bytes have matched; 4: the next observed byte is the selector (R41) -/
  matcher : Fin 5
  /-- the last input snapshot (R39) -/
  snap : Sample
  /-- `last_access_internal` (R45, 20_memory R90) -/
  lastInternal : Bool
  partner : Partner
  /-- every access made, the latest first (20_memory R75; log 23) -/
  log : List Access
deriving DecidableEq, Repr

/-- The interrupt controller and the execution scheduler (10_state R36, R37, R40, R42, R43, R45; 60_exceptions R443). -/
structure Scheduler where
  runMode : RunMode
  /-- the opcode fetched at `pc` and not yet executed (R42) -/
  ir : Option Byte
  /-- set by JAM, never cleared (R43) -/
  halted : Bool
  /-- the NMI level at the previous poll (R40) -/
  nmiPrev : Bool
  breakpoint : Option Addr
  runTo : Option Addr
  /-- the execution fence, an inclusive range (R37) -/
  fence : Option (Addr × Addr)
  /-- the external cancel signal, not yet honoured (60_exceptions R444) -/
  cancelRequested : Bool
  traceEnable : Bool
  traceSeq : Nat
deriving DecidableEq, Repr

/-- The registers the host's accessors name (10_state R48). -/
inductive RegName where
  | a | x | y | sp | p | pc
deriving DecidableEq, Repr

/-- The host commands of 60_exceptions R446, and the query of the locked state (R448). -/
inductive Command where
  | step
  | run
  | runTo (a : Addr)
  | reset
  | setRunMode (m : RunMode)
  | cancel
  | readByte (a : Addr)
  | writeByte (a : Addr) (v : Byte)
  | getReg (r : RegName)
  /-- reads `halted` (R448) -/
  | getHalted
  /-- any value; what is stored is masked to the register's width (10_state R48) -/
  | setReg (r : RegName) (v : Nat)
  | setBreakpoint (a : Addr)
  | clearBreakpoint
  | setFence (lo hi : Addr)
  | clearFence
  | lastAccessInternal
  | getAccel
  | setAccel (l : AccelLevel)
  | setTrace (b : Bool)
deriving DecidableEq, Repr

/-- What a command returned to the host (60_exceptions R446, R448). -/
inductive Reply where
  | byte (v : Byte)
  | reg (r : RegName) (v : Addr)
  | internal (b : Bool)
  | level (l : AccelLevel)
  | halted (b : Bool)
deriving DecidableEq, Repr

/-- The outputs toward the host, each the latest first (60_exceptions R445, R446; log 24). -/
structure Outputs where
  /-- the emitted `(sequence_number, programCounter)` pairs (R445) -/
  trace : List (Nat × Addr)
  replies : List Reply
deriving DecidableEq, Repr

/-- The whole machine. `polls` and `host` are inputs (log 7, 8): the levels at the next polls, and one slot for each
coming step, holding a host command or none. `free` counts the free values drawn (log 22); `cfg` holds the
implementation parameters and is never written (log 12). -/
structure State where
  cpu : Cpu
  bus : Bus
  sched : Scheduler
  polls : List Levels
  host : List (Option Command)
  out : Outputs
  free : Nat
  cfg : Config
deriving DecidableEq, Repr

/-- Why the machine stands still. The CORE has no fault (60_exceptions R419): these are the standing situations of
R433, in each of which it takes no step. All are safe: the model stops where the hardware stands. -/
inductive Fault where
  /-- Raised by `step` in a state that has executed a JAM when the host will read nothing more: the block itself has no
  step of any kind, for good (46_illegal R372; log 10). Safe. -/
  | halted
  /-- Raised by `step`, and by an instruction, inside a non-fast read for which the partner never asserts READY
  (20_memory R73; log 9). Safe. -/
  | readyHold
  /-- Raised by `step` in `Waiting` with the opcode fetched when the host will issue no further command
  (60_exceptions R440 step 5; log 11). Safe. -/
  | commandHold
deriving DecidableEq, Repr

/-- Why the model gives no meaning. -/
inductive Refusal where
  /-- Raised by `exec` for an instruction that has no meaning yet; no arm raises it. Safe. -/
  | notModelled (mnemonic : String)
deriving DecidableEq, Repr

/-- The levels a line has when nothing drives it active: READY active, no request (log 6, 7). -/
def Lines.idle : Lines := { ready := true, irq := false, nmi := false, reset := false }

/-- Just after the first reset sequence (10_state R46, 70_reset_and_hazards R462, R466) with the default parameters.
DESIGN CHOICE (unsafe), each with its log: A, X, Y, SP zero (3); nothing listed in shadow and partner, which read as
0x00 (5), so that the reset vector is 0x0000 (18); no scripted inputs (6, 7, 8), so that `snap`, which the last vector
read took, has no line active but READY (17); empty histories (23, 24). -/
def State.reset : State where
  cpu := { a := 0, x := 0, y := 0, sp := 0, p := Config.default.resetFlags ||| 0x20, pc := 0 }
  bus :=
    { shadow := [], accel := Config.default.accelInit, matcher := 0,
      snap := { dataIn := 0, ready := true, irq := false, nmi := false, reset := false },
      lastInternal := false, partner := { samples := [], mem := [], lines := Lines.idle }, log := [] }
  sched :=
    { runMode := Config.default.modeAfterReset, ir := none, halted := false, nmiPrev := false, breakpoint := none,
      runTo := none, fence := none, cancelRequested := false, traceEnable := false, traceSeq := 0 }
  polls := []
  host := []
  out := { trace := [], replies := [] }
  free := 0
  cfg := Config.default

end Sys2Proof.Machine
end

