-- ==== Sys2Proof/Machine/Memory.lean ====
section
/-! DEFINITION. Bit-field and byte-order helpers (00_scope R8, 20_memory R78), and the memory in its canonical form. -/

namespace Sys2Proof.Machine

open Sys2Proof

/-- Bits 7:0 of an address. -/
def lo8 (w : Addr) : Byte := w.setWidth 8

/-- Bits 15:8 of an address. -/
def hi8 (w : Addr) : Byte := (w >>> 8).setWidth 8

/-- `{hi, lo}` (00_scope R8). -/
def cat (hi lo : Byte) : Addr := hi ++ lo

/-- `zext_16` (00_scope R8). -/
def zext16 (b : Byte) : Addr := b.setWidth 16

/-- `sext_16` (00_scope R8). -/
def sext16 (b : Byte) : Addr := b.signExtend 16

/-- What an address that is not listed reads as (log 5, DESIGN CHOICE). -/
def unlisted : Byte := 0x00

/-- The byte at an address. -/
def Memory.get : Memory → Addr → Byte
  | [], _ => unlisted
  | (k, v) :: m, a => if k = a.toNat then v else Memory.get m a

/-- Puts an entry before the first entry with a greater address. -/
def Memory.insert (n : Nat) (v : Byte) : Memory → Memory
  | [] => [(n, v)]
  | (k, w) :: m => if n < k then (n, v) :: (k, w) :: m else (k, w) :: Memory.insert n v m

/-- Takes the entries of an address out. -/
def Memory.erase (n : Nat) : Memory → Memory
  | [] => []
  | (k, w) :: m => if k = n then Memory.erase n m else (k, w) :: Memory.erase n m

/-- Stores a byte; storing what an unlisted address reads as takes the entry out. -/
def Memory.set (m : Memory) (a : Addr) (v : Byte) : Memory :=
  if v = unlisted then Memory.erase a.toNat m else Memory.insert a.toNat v (Memory.erase a.toNat m)

/-- The entries have addresses that rise strictly from at least `n`, lie in the address space, and differ from what an
unlisted address reads as. -/
def Memory.wfFrom (n : Nat) : Memory → Bool
  | [] => true
  | (k, v) :: m => decide (n ≤ k) && decide (k < 65536) && decide (v ≠ unlisted) && Memory.wfFrom (k + 1) m

/-- The canonical form. -/
def Memory.wf (m : Memory) : Bool := Memory.wfFrom 0 m

/-- Stores bytes from an address upward, wrapping mod 65536 (the loader, 20_memory R89). -/
def Memory.setBlock (m : Memory) (base : Addr) : List Byte → Memory
  | [] => m
  | v :: vs => Memory.setBlock (m.set base v) (base + 1) vs

end Sys2Proof.Machine
end

