-- ==== Sys2Proof/Machine/Bus.lean ====
section
/-! DEFINITION. The address classifier, the key-sequence matcher, the bus partner and the bus transaction sequencer
(20_memory R60 to R91). -/

namespace Sys2Proof.Machine

open Sys2Proof

/-- The kinds of window an address can lie in (20_memory R63). -/
inductive Region where
  | rom
  | device
  | dynamic
  | other
deriving DecidableEq, Repr

/-- The ROM window `ROM_BASE .. 0xFFFF`. -/
def inRom (c : Config) (a : Addr) : Bool := decide (c.romBase ≤ a)

/-- The device window `DEV_LO .. DEV_HI`. -/
def inDevice (c : Config) (a : Addr) : Bool := decide (c.devLo ≤ a) && decide (a ≤ c.devHi)

/-- An inclusive range holds an address. -/
def Window.holds (w : Window) (a : Addr) : Bool := decide (w.lo ≤ a) && decide (a ≤ w.hi)

/-- The windows that hold `a`, each with its width less one, in the order of R63. DESIGN CHOICE, unsafe (log 33): each
range of `DYN_WINDOWS` is a window with its own width; the spec leaves open whether their union is one window. -/
def windowsAt (c : Config) (a : Addr) : List (Nat × Region) :=
  (if inRom c a then [(0xFFFF - c.romBase.toNat, Region.rom)] else []) ++
  (if inDevice c a then [(c.devHi.toNat - c.devLo.toNat, Region.device)] else []) ++
  (c.dynWindows.filter (Window.holds · a)).map fun w => (w.hi.toNat - w.lo.toNat, Region.dynamic)

/-- The narrowest of the windows; of equally narrow ones the first (20_memory R64; log 20). -/
def narrowest : List (Nat × Region) → Option (Nat × Region)
  | [] => none
  | w :: ws =>
    match narrowest ws with
    | none => some w
    | some v => if v.1 < w.1 then some v else some w

/-- The kind of window that decides the policy of an address (20_memory R63, R64). -/
def region (c : Config) (a : Addr) : Region :=
  match narrowest (windowsAt c a) with
  | none => .other
  | some w => w.2

/-- `classify` (20_memory R63): fixed windows override the level, the rest of the map is external. -/
def classify (c : Config) (a : Addr) (level : AccelLevel) : AccessPolicy :=
  match region c a with
  | .rom => .allExternal
  | .device => .readInternalWriteExternal
  | .dynamic => level
  | .other => .allExternal

/-- The policies whose reads take the fast path (20_memory R65, R66). -/
def fastRead (p : AccessPolicy) : Bool :=
  match p with
  | .allExternal | .readInternalWriteExternal => false
  | .readFastInternalWriteExternal | .allFastInternal => true

/-- The one policy whose writes take the fast path (20_memory R65, R68). -/
def fastWrite (p : AccessPolicy) : Bool :=
  match p with
  | .allFastInternal => true
  | .allExternal | .readInternalWriteExternal | .readFastInternalWriteExternal => false

/-- A bus read at `a` under policy `p` returns `DATA_IN`, not the shadow byte: every `AllExternal` read (20_memory
R66), and a read of the device window where `DEV_READ_SOURCE = data_in` (R71). -/
def returnsDataIn (c : Config) (a : Addr) (p : AccessPolicy) : Bool :=
  decide (p = .allExternal) || (decide (region c a = .device) && decide (c.devReadSource = .dataIn))

/-- The first sample with READY active, and the samples after it: the read repeats its sample until then (20_memory
R66, R73). -/
def firstReady : List Sample → Option (Sample × List Sample)
  | [] => none
  | smp :: rest => if smp.ready then some (smp, rest) else firstReady rest

/-- The last sample of a read transaction at `a`, or none where READY never comes (20_memory R66, R73, R75). -/
def Partner.answer (p : Partner) (a : Addr) : Option (Sample × Partner) :=
  match firstReady p.samples with
  | some (smp, rest) => some (smp, { p with samples := rest })
  | none =>
    if p.lines.ready then
      some ({ dataIn := p.mem.get a, ready := true, irq := p.lines.irq, nmi := p.lines.nmi, reset := p.lines.reset },
        { p with samples := [] })
    else none

/-- The partner as a memory sees a write (20_memory R76). -/
def Partner.wrote (p : Partner) (a : Addr) (v : Byte) : Partner := { p with mem := p.mem.set a v }

/-- `KEY_SEQ[k]`. -/
def keyByte (c : Config) (k : Fin 5) : Byte :=
  if k = 0 then c.key0 else if k = 1 then c.key1 else if k = 2 then c.key2 else c.key3

/-- `SELECTOR(b)`. -/
def selectorOf (table : List (Byte × AccelLevel)) (b : Byte) : Option AccelLevel :=
  match table with
  | [] => none
  | (k, l) :: rest => if k = b then some l else selectorOf rest b

/-- `matcher_observe` (20_memory R72). -/
def matcherObserve (c : Config) (d : Byte) (b : Bus) : Bus :=
  if b.matcher = 4 then
    match selectorOf c.selector d with
    | some l => { b with accel := l, matcher := 0 }
    | none => { b with matcher := 0 }
  else if d = keyByte c b.matcher then { b with matcher := b.matcher + 1 }
  else if d = c.key0 then { b with matcher := 1 }
  else { b with matcher := 0 }

/-- The matcher observes the sampled byte of a bus read at `KEY_ADDR`, if it exists (20_memory R66, R72). -/
def observe (c : Config) (a : Addr) (d : Byte) (b : Bus) : Bus :=
  if a = c.keyAddr ∧ c.matcherEnabled = true then matcherObserve c d b else b

/-- A read on the fast path: the shadow byte and no bus activity (20_memory R66, R67). -/
def fastReadByte (a : Addr) (fetch : Bool) (b : Bus) : Byte × Bus :=
  (b.shadow.get a, { b with lastInternal := true, log := .read a fetch false false :: b.log })

/-- The bus transaction of a read, its last sample being `smp` and the partner being `p` afterwards (20_memory R66). -/
def busRead (c : Config) (a : Addr) (fetch sync : Bool) (smp : Sample) (p : Partner) (b : Bus) : Byte × Bus :=
  let b1 := observe c a smp.dataIn
    { b with snap := smp, lastInternal := false, partner := p, log := .read a fetch true sync :: b.log }
  (if returnsDataIn c a (classify c a b.accel) then smp.dataIn else b1.shadow.get a, b1)

/-- `readByte` (20_memory R66). `sync` is whether SYNC is asserted if the read goes to the bus; none where READY never
comes (R73). -/
def readByte (c : Config) (a : Addr) (fetch sync : Bool) (b : Bus) : Option (Byte × Bus) :=
  if fastRead (classify c a b.accel) then some (fastReadByte a fetch b)
  else
    match b.partner.answer a with
    | some (smp, p) => some (busRead c a fetch sync smp p b)
    | none => none

/-- Step 1 of `writeByte`: below the ROM window every write is mirrored (20_memory R68, R70). -/
def mirror (c : Config) (a : Addr) (v : Byte) (b : Bus) : Bus :=
  if inRom c a then b else { b with shadow := b.shadow.set a v }

/-- `writeByte` (20_memory R68). It does not sample the inputs and does not wait for READY. -/
def writeByte (c : Config) (a : Addr) (v : Byte) (b : Bus) : Bus :=
  let b1 := mirror c a v b
  if fastWrite (classify c a b.accel) then { b1 with lastInternal := true, log := .write a v false :: b.log }
  else { b1 with lastInternal := false, partner := b.partner.wrote a v, log := .write a v true :: b.log }

end Sys2Proof.Machine
end

