-- ==== Sys2Proof/Machine/Flags.lean ====
section
/-! DEFINITION. The flags byte and every computation of a result and its flags: `setNZ` (00_scope R11), the adder and
subtracter in both modes (42_alu R229 to R232), compare (R233), bit test (R228), shifts and steps (43 R260), and the
combined illegal operations on bytes (46_illegal R349 to R352). -/

namespace Sys2Proof.Machine

open Sys2Proof

/-- The bits of `P` by their numbers (10_state R25). -/
inductive Flag where
  | c | z | i | d | b | u | v | n
deriving DecidableEq, Repr

/-- The bit number of a flag (10_state R25). -/
def Flag.bit : Flag → Nat
  | .c => 0 | .z => 1 | .i => 2 | .d => 3 | .b => 4 | .u => 5 | .v => 6 | .n => 7

/-- Reads one flag of a flags byte. -/
def flagOf (p : Byte) (f : Flag) : Bool := p.getLsbD f.bit

/-- Writes one flag of a flags byte and leaves the others (00_scope R9). -/
def putFlag (f : Flag) (on : Bool) (p : Byte) : Byte :=
  if on then p ||| (1#8 <<< f.bit) else p &&& ~~~(1#8 <<< f.bit)

/-- `setNZ(v)` on a flags byte (00_scope R11). -/
def putNZ (v : Byte) (p : Byte) : Byte := putFlag .z (decide (v = 0)) (putFlag .n v.msb p)

/-- What loading `P` from a byte stores: bit 5 is always 1 (10_state R26). -/
def flagsFrom (v : Byte) : Byte := v ||| 0x20

/-- A carry as a number. -/
def carryNat (c : Bool) : Nat := if c then 1 else 0

/-- A result byte with the four arithmetic flags. -/
structure Arith where
  r : Byte
  c : Bool
  v : Bool
  n : Bool
  z : Bool
deriving DecidableEq, Repr

/-- `AddBin` (42_alu R229). -/
def addBin (a m : Byte) (c : Bool) : Arith :=
  let t := a.toNat + m.toNat + carryNat c
  let r := BitVec.ofNat 8 t
  { r := r, c := decide (255 < t), v := a.msb == m.msb && r.msb != a.msb, n := r.msb, z := decide (r = 0) }

/-- `SubBin` (42_alu R231). -/
def subBin (a m : Byte) (c : Bool) : Arith :=
  let t : Int := a.toNat - m.toNat - (1 - carryNat c)
  let r := BitVec.ofInt 8 t
  { r := r, c := decide (0 ≤ t), v := a.msb != m.msb && r.msb != a.msb, n := r.msb, z := decide (r = 0) }

/-- The low-nibble sum of `AddDec`, corrected (42_alu R230). -/
def addDecLow (a m : Byte) (c : Bool) : Nat :=
  let al := a.toNat % 16 + m.toNat % 16 + carryNat c
  if 0x0A ≤ al then (al + 0x06) % 16 + 0x10 else al

/-- `AddDec`, the NMOS decimal add with its flags (42_alu R230; log 21). -/
def addDec (a m : Byte) (c : Bool) : Arith :=
  let t := a.toNat / 16 * 16 + m.toNat / 16 * 16 + addDecLow a m c
  let u := if 0xA0 ≤ t then t + 0x60 else t
  { r := BitVec.ofNat 8 u, c := decide (0x100 ≤ u), v := a.msb == m.msb && t.testBit 7 != a.msb,
    n := t.testBit 7, z := decide ((a.toNat + m.toNat + carryNat c) % 256 = 0) }

/-- The low-nibble difference of `SubDec`, corrected (42_alu R232); `x & 0x0F` of an integer is `x mod 16`. -/
def subDecLow (a m : Byte) (c : Bool) : Int :=
  let al : Int := (a.toNat % 16 : Nat) - (m.toNat % 16 : Nat) + carryNat c - 1
  if al < 0 then (al - 0x06) % 16 - 0x10 else al

/-- `SubDec`: the decimal result byte with the flags of the binary subtraction (42_alu R232; log 21). -/
def subDec (a m : Byte) (c : Bool) : Arith :=
  let t : Int := (a.toNat / 16 * 16 : Nat) - (m.toNat / 16 * 16 : Nat) + subDecLow a m c
  { subBin a m c with r := BitVec.ofInt 8 (if t < 0 then t - 0x60 else t) }

/-- The adder, in the mode `D` selects (42_alu R223). -/
def adder (d : Bool) (a m : Byte) (c : Bool) : Arith := if d then addDec a m c else addBin a m c

/-- The subtracter, in the mode `D` selects (42_alu R224). -/
def subtracter (d : Bool) (a m : Byte) (c : Bool) : Arith := if d then subDec a m c else subBin a m c

/-- `C <- C'; V <- V'; N <- N'; Z <- Z'` (42_alu R223). -/
def putArith (t : Arith) (p : Byte) : Byte :=
  putFlag .z t.z (putFlag .n t.n (putFlag .v t.v (putFlag .c t.c p)))

/-- `Compare(reg, m)` on a flags byte (42_alu R233). -/
def putCompare (reg m : Byte) (p : Byte) : Byte := putNZ (reg - m) (putFlag .c (decide (m ≤ reg)) p)

/-- `BIT` on a flags byte: `Z` from the AND, `N` and `V` from the memory byte (42_alu R228). -/
def putBit (a m : Byte) (p : Byte) : Byte :=
  putFlag .v (m.getLsbD 6) (putFlag .n (m.getLsbD 7) (putFlag .z (decide (a &&& m = 0)) p))

/-- An operation of one byte and the flags byte, with its result and the new flags (43 R260). -/
abbrev ByteOp := Byte → Byte → Byte × Byte

/-- `Asl` (43 R260). -/
def aslOp : ByteOp := fun m p =>
  let r := m <<< 1
  (r, putNZ r (putFlag .c (m.getLsbD 7) p))

/-- `Lsr` (43 R260). -/
def lsrOp : ByteOp := fun m p =>
  let r := m >>> 1
  (r, putNZ r (putFlag .c (m.getLsbD 0) p))

/-- `Rol` (43 R260). -/
def rolOp : ByteOp := fun m p =>
  let r := (m <<< 1) ||| (if flagOf p .c then 0x01 else 0x00)
  (r, putNZ r (putFlag .c (m.getLsbD 7) p))

/-- `Ror` (43 R260). -/
def rorOp : ByteOp := fun m p =>
  let r := (m >>> 1) ||| (if flagOf p .c then 0x80 else 0x00)
  (r, putNZ r (putFlag .c (m.getLsbD 0) p))

/-- `Inc` (43 R260). -/
def incOp : ByteOp := fun m p => (m + 1, putNZ (m + 1) p)

/-- `Dec` (43 R260). -/
def decOp : ByteOp := fun m p => (m - 1, putNZ (m - 1) p)

/-- `m -> (m + 1) mod 256`, no flag (46_illegal R346). -/
def incSilent : ByteOp := fun m p => (m + 1, p)

/-- `m -> (m - 1) mod 256`, no flag (46_illegal R345). -/
def decSilent : ByteOp := fun m p => (m - 1, p)

/-- ANC (46_illegal R349): `A & M`, then `C` copies bit 7. -/
def ancOp (a m p : Byte) : Byte × Byte :=
  let r := a &&& m
  (r, putFlag .c (r.getLsbD 7) (putNZ r p))

/-- ARR with `D = 0` (46_illegal R351): AND, then rotate right with its own `C` and `V`. -/
def arrOp (a m p : Byte) : Byte × Byte :=
  let r := ((a &&& m) >>> 1) ||| (if flagOf p .c then 0x80 else 0x00)
  (r, putFlag .v (r.getLsbD 6 ^^ r.getLsbD 5) (putFlag .c (r.getLsbD 6) (putNZ r p)))

/-- SBX (46_illegal R352): `(A & X) - M` as a compare that stores. -/
def sbxOp (a x m p : Byte) : Byte × Byte :=
  let t := a &&& x
  (t - m, putNZ (t - m) (putFlag .c (decide (m ≤ t)) p))

/-- The flags byte with `N`, `V`, `Z`, `C` taken from the byte `f` and the others kept (46_illegal R351, `D = 1`). -/
def putFreeNVZC (f p : Byte) : Byte :=
  putFlag .c (flagOf f .c) (putFlag .z (flagOf f .z) (putFlag .v (flagOf f .v) (putFlag .n (flagOf f .n) p)))

end Sys2Proof.Machine
end

