-- ==== Sys2Proof/Machine/Ops.lean ====
section
/-! DEFINITION. The named operations over registers and memory (00_scope R10, R11), taking an exception and returning
from one (45 R330, R331; 60_exceptions R408), and the reset sequence (R412). -/

namespace Sys2Proof.Machine

open Sys2Proof

/-- How an instruction ends: its next state, or the hold inside a read that READY never ends (20_memory R73). -/
def complete (r : Option State) : Host.Outcome State Fault Refusal :=
  match r with
  | some s => .next s
  | none => .fault .readyHold

/-- `A <- v`. -/
def State.setA (s : State) (v : Byte) : State := { s with cpu := { s.cpu with a := v } }

/-- `X <- v`. -/
def State.setX (s : State) (v : Byte) : State := { s with cpu := { s.cpu with x := v } }

/-- `Y <- v`. -/
def State.setY (s : State) (v : Byte) : State := { s with cpu := { s.cpu with y := v } }

/-- `SP <- v`. -/
def State.setSp (s : State) (v : Byte) : State := { s with cpu := { s.cpu with sp := v } }

/-- `P <- v`. -/
def State.setP (s : State) (v : Byte) : State := { s with cpu := { s.cpu with p := v } }

/-- `pc <- v`. -/
def State.setPc (s : State) (v : Addr) : State := { s with cpu := { s.cpu with pc := v } }

/-- Replaces the bus unit. -/
def State.setBus (s : State) (b : Bus) : State := { s with bus := b }

/-- Replaces the scheduler's state. -/
def State.setSched (s : State) (q : Scheduler) : State := { s with sched := q }

/-- `setNZ(v)` (00_scope R11). -/
def State.setNZ (s : State) (v : Byte) : State := s.setP (putNZ v s.cpu.p)

/-- Writes one flag. -/
def State.setFlag (s : State) (f : Flag) (on : Bool) : State := s.setP (putFlag f on s.cpu.p)

/-- One flag of `P`. -/
def State.flag (s : State) (f : Flag) : Bool := flagOf s.cpu.p f

/-- `pc <- (PC + n) mod 65536`. -/
def State.advance (s : State) (n : Addr) : State := s.setPc (s.cpu.pc + n)

/-- `MemRead(addr, 1)` (00_scope R10). -/
def memRead (a : Addr) (s : State) : Option (Byte × State) :=
  match readByte s.cfg a false false s.bus with
  | some (v, b) => some (v, s.setBus b)
  | none => none

/-- Whether SYNC is asserted on the next opcode fetch that goes to the bus (20_memory R74; log 16). -/
def syncAllowed (s : State) : Bool :=
  if s.sched.runMode = .singleStep then true
  else
    match s.cfg.syncInRunning with
    | .always => true
    | .never => false
    | .unspecified => Config.freeSync s.free

/-- `MemFetch(addr)` (00_scope R10); it draws the free value of SYNC. -/
def memFetch (a : Addr) (s : State) : Option (Byte × State) :=
  match readByte s.cfg a true (syncAllowed s) s.bus with
  | some (v, b) => some (v, { s with bus := b, free := s.free + 1 })
  | none => none

/-- `MemWrite(addr, 1, v)` (00_scope R10). -/
def memWrite (a : Addr) (v : Byte) (s : State) : State := s.setBus (writeByte s.cfg a v s.bus)

/-- `STACK_BASE | SP` (10_state R22). -/
def stackAddr (s : State) : Addr := s.cfg.stackBase ||| zext16 s.cpu.sp

/-- `push(v)` (00_scope R11). -/
def push (v : Byte) (s : State) : State :=
  let s1 := memWrite (stackAddr s) v s
  s1.setSp (s1.cpu.sp - 1)

/-- `pull()` (00_scope R11). -/
def pull (s : State) : Option (Byte × State) :=
  let s1 := s.setSp (s.cpu.sp + 1)
  memRead (stackAddr s1) s1

/-- `push(w[15:8]); push(w[7:0])`. -/
def pushWord (w : Addr) (s : State) : State := push (lo8 w) (push (hi8 w) s)

/-- `lo <- pull(); hi <- pull()`, as `{hi, lo}`. -/
def pullWord (s : State) : Option (Addr × State) := do
  let (lo, s1) ← pull s
  let (hi, s2) ← pull s1
  some (cat hi lo, s2)

/-- Reads the little-endian word at `a` and `a + 1` (20_memory R78), low byte first. -/
def readWord (a : Addr) (s : State) : Option (Addr × State) := do
  let (lo, s1) ← memRead a s
  let (hi, s2) ← memRead (a + 1) s1
  some (cat hi lo, s2)

/-- TAKING AN EXCEPTION, the part BRK, NMI and IRQ share (45 R330, 60_exceptions R408): `B` is set or cleared, the
return address and the flags with the old `I` are pushed, the vector is read, `PC` is set from it, then `I` is set. -/
def takeException (ret : Addr) (brk : Bool) (vec : Addr) (s : State) : Option State := do
  let s1 := s.setFlag .b brk
  let s2 := pushWord ret s1
  let s3 := push s2.cpu.p s2
  let (target, s4) ← readWord vec s3
  some ((s4.setPc target).setFlag .i true)

/-- RETURN FROM AN EXCEPTION after the two dummy reads of RTI (45 R331): flags, then the return address. -/
def returnFromException (s : State) : Option State := do
  let (p, s1) ← pull s
  let (target, s2) ← pullWord (s1.setP (flagsFrom p))
  some (s2.setPc target)

/-- Clears the prefetched opcode (10_state R42). -/
def State.clearIr (s : State) : State := s.setSched { s.sched with ir := none }

/-- `Interrupt(vec)` (60_exceptions R408): two dummy reads at `PC`, then the exception with `B = 0`. -/
def interrupt (vec : Addr) (s : State) : Option State := do
  let (_, s1) ← memRead s.cpu.pc s
  let (_, s2) ← memRead s.cpu.pc s1
  let s3 ← takeException s.cpu.pc false vec s2
  some s3.clearIr

/-- `reset_dummy_addr(i)` with the old `PC` and `SP` (60_exceptions R412). -/
def resetReadAddr (s : State) : ResetRead → Addr
  | .atPc => s.cpu.pc
  | .atStack k => s.cfg.stackBase ||| zext16 (s.cpu.sp - k)
  | .atAddr a => a

/-- Reads a list of addresses and discards what they return. -/
def readAll : List Addr → State → Option State
  | [], s => some s
  | a :: l, s => do
    let (_, s1) ← memRead a s
    readAll l s1

/-- A, X, Y, SP after a reset sequence: free values (10_state R47, 60_exceptions R412; log 4). -/
def forgetRegisters (s : State) : State :=
  { s with
    cpu :=
      { s.cpu with
        a := Config.freeByte s.free
        x := Config.freeByte (s.free + 1)
        y := Config.freeByte (s.free + 2)
        sp := Config.freeByte (s.free + 3) }
    free := s.free + 4 }

/-- `ResetSequence()` (60_exceptions R412). -/
def resetSequence (s : State) : Option State := do
  let s1 ← readAll (s.cfg.resetDummies.map (resetReadAddr s)) s
  let (target, s2) ← readWord s.cfg.vecReset s1
  some (forgetRegisters ((s2.setPc target).setP (flagsFrom s2.cfg.resetFlags)).clearIr)

/-- The loader's blocks, copied into the shadow memory (20_memory R89). DESIGN CHOICE, unsafe (log 32): they are copied in
the order of the list, so that where two of them overlap the later block's byte stands; the spec gives a set of blocks and
no order. -/
def loadBlocks (m : Memory) : List (Addr × List Byte) → Memory
  | [] => m
  | (base, bytes) :: blocks => loadBlocks (m.setBlock base bytes) blocks

/-- Power-on initialisation with the loader's blocks, before the first reset sequence (70 R460): any machine `s` whose
unspecified parts (registers, shadow outside the blocks, snapshot; 10_state R46) are whatever they are. The main loop
then runs the first reset sequence before anything else (R460): the first slot of the host holds no command (log 28). -/
def powerOn (blocks : List (Addr × List Byte)) (s : State) : State :=
  { s with
    bus := { s.bus with shadow := loadBlocks s.bus.shadow blocks, accel := s.cfg.accelInit, matcher := 0 }
    sched :=
      { runMode := .resetting, ir := none, halted := false, nmiPrev := false, breakpoint := none, runTo := none,
        fence := none, cancelRequested := false, traceEnable := false, traceSeq := 0 }
    host := none :: s.host }

end Sys2Proof.Machine
end

