-- ==== Sys2Proof/Machine/Operands.lean ====
section
/-! DEFINITION. The addressing-mode engine (40_addressing R141 to R150): every operand form with the exact number and
order of its accesses, dummy reads included. -/

namespace Sys2Proof.Machine

open Sys2Proof

/-- The modes that yield an effective address (40_addressing R144 to R149). -/
inductive AddrMode where
  | imm | zp | zpx | zpy | abs | abx | aby | izx | izy
deriving DecidableEq, Repr

/-- The instruction length each mode gives (30_encoding R111). -/
def AddrMode.length : AddrMode → Addr
  | .imm | .zp | .zpx | .zpy | .izx | .izy => 2
  | .abs | .abx | .aby => 3

/-- How the instruction uses its operand (40_addressing R141). -/
inductive AccessKind where
  | read | write | rmw
deriving DecidableEq, Repr

/-- `AM_imp()` (40_addressing R143): the dummy read of the byte after the opcode. -/
def amImp (s : State) : Option State := do
  let (_, s1) ← memRead (s.cpu.pc + 1) s
  some s1

/-- The indexed address without the carry into its high byte (40_addressing R142). -/
def uncarried (base : Addr) (index : Byte) : Addr := cat (hi8 base) (lo8 base + index)

/-- The last part of the indexed modes (40_addressing R149, R150): the dummy read at the uncarried address, always for a
write or read-modify-write, for a read only when a page is crossed. -/
def indexed (base : Addr) (index : Byte) (k : AccessKind) (s : State) : Option (Addr × State) :=
  let ea := base + zext16 index
  if k = .read ∧ uncarried base index = ea then some (ea, s)
  else do
    let (_, s1) ← memRead (uncarried base index) s
    some (ea, s1)

/-- Reads the two operand bytes `lo8`, `hi8` as an address (40_addressing R147). -/
def operandWord (s : State) : Option (Addr × State) := do
  let (lo, s1) ← memRead (s.cpu.pc + 1) s
  let (hi, s2) ← memRead (s.cpu.pc + 2) s1
  some (cat hi lo, s2)

/-- Reads the pointer at `z` and `z + 1`, both in page zero (40_addressing R148, R149). -/
def zeroPagePointer (z : Byte) (s : State) : Option (Addr × State) := do
  let (lo, s1) ← memRead (zext16 z) s
  let (hi, s2) ← memRead (zext16 (z + 1)) s1
  some (cat hi lo, s2)

/-- `AM_zpx`, `AM_zpy` with their index (40_addressing R146). -/
def zeroPageIndexed (index : Byte) (s : State) : Option (Addr × State) := do
  let (z, s1) ← memRead (s.cpu.pc + 1) s
  let (_, s2) ← memRead (zext16 z) s1
  some (zext16 (z + index), s2)

/-- `AM_<mode>(kind)`: the effective address (40_addressing R144 to R150). -/
def effAddr (m : AddrMode) (k : AccessKind) (s : State) : Option (Addr × State) :=
  match m with
  | .imm => some (s.cpu.pc + 1, s)
  | .zp => do
    let (z, s1) ← memRead (s.cpu.pc + 1) s
    some (zext16 z, s1)
  | .zpx => zeroPageIndexed s.cpu.x s
  | .zpy => zeroPageIndexed s.cpu.y s
  | .abs => operandWord s
  | .abx => do
    let (base, s1) ← operandWord s
    indexed base s1.cpu.x k s1
  | .aby => do
    let (base, s1) ← operandWord s
    indexed base s1.cpu.y k s1
  | .izx => do
    let (z, s1) ← memRead (s.cpu.pc + 1) s
    let (_, s2) ← memRead (zext16 z) s1
    zeroPagePointer (z + s2.cpu.x) s2
  | .izy => do
    let (z, s1) ← memRead (s.cpu.pc + 1) s
    let (base, s2) ← zeroPagePointer z s1
    indexed base s2.cpu.y k s2

/-- `ReadOp(mode)` (40_addressing R141). -/
def readOp (m : AddrMode) (s : State) : Option (Byte × State) := do
  let (ea, s1) ← effAddr m .read s
  memRead ea s1

/-- `WriteOp(mode, v)` (40_addressing R141). -/
def writeOp (m : AddrMode) (v : Byte) (s : State) : Option State := do
  let (ea, s1) ← effAddr m .write s
  some (memWrite ea v s1)

/-- `RmwOp(mode, f)` (40_addressing R141): the old byte is written back before the new one. -/
def rmwOp (m : AddrMode) (f : ByteOp) (s : State) : Option (Byte × State) := do
  let (ea, s1) ← effAddr m .rmw s
  let (old, s2) ← memRead ea s1
  let s3 := memWrite ea old s2
  let (r, p) := f old s3.cpu.p
  some (r, memWrite ea r (s3.setP p))

end Sys2Proof.Machine
end

