-- ==== Sys2Proof/Machine/LoadStore.lean ====
section
/-! DEFINITION. Loads, stores and register transfers (41_load_store_transfer R180 to R191). -/

namespace Sys2Proof.Machine

open Sys2Proof

/-- LDA, load accumulator (R180). -/
def lda (m : AddrMode) (s : State) : Option State := do
  let (v, s1) ← readOp m s
  some (((s1.setA v).setNZ v).advance m.length)

/-- `A1` LDA ($nn,X) (R180). -/
def execLdaIzx (s : State) : Host.Outcome State Fault Refusal := complete (lda .izx s)

/-- `A5` LDA $nn (R180). -/
def execLdaZp (s : State) : Host.Outcome State Fault Refusal := complete (lda .zp s)

/-- `A9` LDA #$nn (R180). -/
def execLdaImm (s : State) : Host.Outcome State Fault Refusal := complete (lda .imm s)

/-- `AD` LDA $nnnn (R180). -/
def execLdaAbs (s : State) : Host.Outcome State Fault Refusal := complete (lda .abs s)

/-- `B1` LDA ($nn),Y (R180). -/
def execLdaIzy (s : State) : Host.Outcome State Fault Refusal := complete (lda .izy s)

/-- `B5` LDA $nn,X (R180). -/
def execLdaZpx (s : State) : Host.Outcome State Fault Refusal := complete (lda .zpx s)

/-- `B9` LDA $nnnn,Y (R180). -/
def execLdaAby (s : State) : Host.Outcome State Fault Refusal := complete (lda .aby s)

/-- `BD` LDA $nnnn,X (R180). -/
def execLdaAbx (s : State) : Host.Outcome State Fault Refusal := complete (lda .abx s)

/-- LDX, load X (R181). -/
def ldx (m : AddrMode) (s : State) : Option State := do
  let (v, s1) ← readOp m s
  some (((s1.setX v).setNZ v).advance m.length)

/-- `A2` LDX #$nn (R181). -/
def execLdxImm (s : State) : Host.Outcome State Fault Refusal := complete (ldx .imm s)

/-- `A6` LDX $nn (R181). -/
def execLdxZp (s : State) : Host.Outcome State Fault Refusal := complete (ldx .zp s)

/-- `AE` LDX $nnnn (R181). -/
def execLdxAbs (s : State) : Host.Outcome State Fault Refusal := complete (ldx .abs s)

/-- `B6` LDX $nn,Y (R181). -/
def execLdxZpy (s : State) : Host.Outcome State Fault Refusal := complete (ldx .zpy s)

/-- `BE` LDX $nnnn,Y (R181). -/
def execLdxAby (s : State) : Host.Outcome State Fault Refusal := complete (ldx .aby s)

/-- LDY, load Y (R182). -/
def ldy (m : AddrMode) (s : State) : Option State := do
  let (v, s1) ← readOp m s
  some (((s1.setY v).setNZ v).advance m.length)

/-- `A0` LDY #$nn (R182). -/
def execLdyImm (s : State) : Host.Outcome State Fault Refusal := complete (ldy .imm s)

/-- `A4` LDY $nn (R182). -/
def execLdyZp (s : State) : Host.Outcome State Fault Refusal := complete (ldy .zp s)

/-- `AC` LDY $nnnn (R182). -/
def execLdyAbs (s : State) : Host.Outcome State Fault Refusal := complete (ldy .abs s)

/-- `B4` LDY $nn,X (R182). -/
def execLdyZpx (s : State) : Host.Outcome State Fault Refusal := complete (ldy .zpx s)

/-- `BC` LDY $nnnn,X (R182). -/
def execLdyAbx (s : State) : Host.Outcome State Fault Refusal := complete (ldy .abx s)

/-- STA, store accumulator (R183). -/
def sta (m : AddrMode) (s : State) : Option State := do
  let s1 ← writeOp m s.cpu.a s
  some (s1.advance m.length)

/-- `81` STA ($nn,X) (R183). -/
def execStaIzx (s : State) : Host.Outcome State Fault Refusal := complete (sta .izx s)

/-- `85` STA $nn (R183). -/
def execStaZp (s : State) : Host.Outcome State Fault Refusal := complete (sta .zp s)

/-- `8D` STA $nnnn (R183). -/
def execStaAbs (s : State) : Host.Outcome State Fault Refusal := complete (sta .abs s)

/-- `91` STA ($nn),Y (R183). -/
def execStaIzy (s : State) : Host.Outcome State Fault Refusal := complete (sta .izy s)

/-- `95` STA $nn,X (R183). -/
def execStaZpx (s : State) : Host.Outcome State Fault Refusal := complete (sta .zpx s)

/-- `99` STA $nnnn,Y (R183). -/
def execStaAby (s : State) : Host.Outcome State Fault Refusal := complete (sta .aby s)

/-- `9D` STA $nnnn,X (R183). -/
def execStaAbx (s : State) : Host.Outcome State Fault Refusal := complete (sta .abx s)

/-- STX, store X (R184). -/
def stx (m : AddrMode) (s : State) : Option State := do
  let s1 ← writeOp m s.cpu.x s
  some (s1.advance m.length)

/-- `86` STX $nn (R184). -/
def execStxZp (s : State) : Host.Outcome State Fault Refusal := complete (stx .zp s)

/-- `8E` STX $nnnn (R184). -/
def execStxAbs (s : State) : Host.Outcome State Fault Refusal := complete (stx .abs s)

/-- `96` STX $nn,Y (R184). -/
def execStxZpy (s : State) : Host.Outcome State Fault Refusal := complete (stx .zpy s)

/-- STY, store Y (R185). -/
def sty (m : AddrMode) (s : State) : Option State := do
  let s1 ← writeOp m s.cpu.y s
  some (s1.advance m.length)

/-- `84` STY $nn (R185). -/
def execStyZp (s : State) : Host.Outcome State Fault Refusal := complete (sty .zp s)

/-- `8C` STY $nnnn (R185). -/
def execStyAbs (s : State) : Host.Outcome State Fault Refusal := complete (sty .abs s)

/-- `94` STY $nn,X (R185). -/
def execStyZpx (s : State) : Host.Outcome State Fault Refusal := complete (sty .zpx s)

/-- TAX (R186). -/
def tax (s : State) : Option State := do
  let s1 ← amImp s
  some (((s1.setX s1.cpu.a).setNZ s1.cpu.a).advance 1)

/-- `AA` TAX (R186). -/
def execTax (s : State) : Host.Outcome State Fault Refusal := complete (tax s)

/-- TAY (R187). -/
def tay (s : State) : Option State := do
  let s1 ← amImp s
  some (((s1.setY s1.cpu.a).setNZ s1.cpu.a).advance 1)

/-- `A8` TAY (R187). -/
def execTay (s : State) : Host.Outcome State Fault Refusal := complete (tay s)

/-- TXA (R188). -/
def txa (s : State) : Option State := do
  let s1 ← amImp s
  some (((s1.setA s1.cpu.x).setNZ s1.cpu.x).advance 1)

/-- `8A` TXA (R188). -/
def execTxa (s : State) : Host.Outcome State Fault Refusal := complete (txa s)

/-- TYA (R189). -/
def tya (s : State) : Option State := do
  let s1 ← amImp s
  some (((s1.setA s1.cpu.y).setNZ s1.cpu.y).advance 1)

/-- `98` TYA (R189). -/
def execTya (s : State) : Host.Outcome State Fault Refusal := complete (tya s)

/-- TSX (R190). -/
def tsx (s : State) : Option State := do
  let s1 ← amImp s
  some (((s1.setX s1.cpu.sp).setNZ s1.cpu.sp).advance 1)

/-- `BA` TSX (R190). -/
def execTsx (s : State) : Host.Outcome State Fault Refusal := complete (tsx s)

/-- TXS (R191). -/
def txs (s : State) : Option State := do
  let s1 ← amImp s
  some ((s1.setSp s1.cpu.x).advance 1)

/-- `9A` TXS (R191). -/
def execTxs (s : State) : Host.Outcome State Fault Refusal := complete (txs s)

end Sys2Proof.Machine
end

