-- ==== Sys2Proof/Machine/Alu.lean ====
section
/-! DEFINITION. The ALU: logic, add, subtract, compare, bit test (42_alu R220 to R234). -/

namespace Sys2Proof.Machine

open Sys2Proof

/-- ORA, bitwise OR with the accumulator (R220). -/
def ora (m : AddrMode) (s : State) : Option State := do
  let (v, s1) ← readOp m s
  let r := s1.cpu.a ||| v
  some (((s1.setA r).setNZ r).advance m.length)

/-- `01` ORA ($nn,X) (R220). -/
def execOraIzx (s : State) : Host.Outcome State Fault Refusal := complete (ora .izx s)

/-- `05` ORA $nn (R220). -/
def execOraZp (s : State) : Host.Outcome State Fault Refusal := complete (ora .zp s)

/-- `09` ORA #$nn (R220). -/
def execOraImm (s : State) : Host.Outcome State Fault Refusal := complete (ora .imm s)

/-- `0D` ORA $nnnn (R220). -/
def execOraAbs (s : State) : Host.Outcome State Fault Refusal := complete (ora .abs s)

/-- `11` ORA ($nn),Y (R220). -/
def execOraIzy (s : State) : Host.Outcome State Fault Refusal := complete (ora .izy s)

/-- `15` ORA $nn,X (R220). -/
def execOraZpx (s : State) : Host.Outcome State Fault Refusal := complete (ora .zpx s)

/-- `19` ORA $nnnn,Y (R220). -/
def execOraAby (s : State) : Host.Outcome State Fault Refusal := complete (ora .aby s)

/-- `1D` ORA $nnnn,X (R220). -/
def execOraAbx (s : State) : Host.Outcome State Fault Refusal := complete (ora .abx s)

/-- AND, bitwise AND with the accumulator (R221). -/
def andA (m : AddrMode) (s : State) : Option State := do
  let (v, s1) ← readOp m s
  let r := s1.cpu.a &&& v
  some (((s1.setA r).setNZ r).advance m.length)

/-- `21` AND ($nn,X) (R221). -/
def execAndIzx (s : State) : Host.Outcome State Fault Refusal := complete (andA .izx s)

/-- `25` AND $nn (R221). -/
def execAndZp (s : State) : Host.Outcome State Fault Refusal := complete (andA .zp s)

/-- `29` AND #$nn (R221). -/
def execAndImm (s : State) : Host.Outcome State Fault Refusal := complete (andA .imm s)

/-- `2D` AND $nnnn (R221). -/
def execAndAbs (s : State) : Host.Outcome State Fault Refusal := complete (andA .abs s)

/-- `31` AND ($nn),Y (R221). -/
def execAndIzy (s : State) : Host.Outcome State Fault Refusal := complete (andA .izy s)

/-- `35` AND $nn,X (R221). -/
def execAndZpx (s : State) : Host.Outcome State Fault Refusal := complete (andA .zpx s)

/-- `39` AND $nnnn,Y (R221). -/
def execAndAby (s : State) : Host.Outcome State Fault Refusal := complete (andA .aby s)

/-- `3D` AND $nnnn,X (R221). -/
def execAndAbx (s : State) : Host.Outcome State Fault Refusal := complete (andA .abx s)

/-- EOR, bitwise exclusive OR with the accumulator (R222). -/
def eor (m : AddrMode) (s : State) : Option State := do
  let (v, s1) ← readOp m s
  let r := s1.cpu.a ^^^ v
  some (((s1.setA r).setNZ r).advance m.length)

/-- `41` EOR ($nn,X) (R222). -/
def execEorIzx (s : State) : Host.Outcome State Fault Refusal := complete (eor .izx s)

/-- `45` EOR $nn (R222). -/
def execEorZp (s : State) : Host.Outcome State Fault Refusal := complete (eor .zp s)

/-- `49` EOR #$nn (R222). -/
def execEorImm (s : State) : Host.Outcome State Fault Refusal := complete (eor .imm s)

/-- `4D` EOR $nnnn (R222). -/
def execEorAbs (s : State) : Host.Outcome State Fault Refusal := complete (eor .abs s)

/-- `51` EOR ($nn),Y (R222). -/
def execEorIzy (s : State) : Host.Outcome State Fault Refusal := complete (eor .izy s)

/-- `55` EOR $nn,X (R222). -/
def execEorZpx (s : State) : Host.Outcome State Fault Refusal := complete (eor .zpx s)

/-- `59` EOR $nnnn,Y (R222). -/
def execEorAby (s : State) : Host.Outcome State Fault Refusal := complete (eor .aby s)

/-- `5D` EOR $nnnn,X (R222). -/
def execEorAbx (s : State) : Host.Outcome State Fault Refusal := complete (eor .abx s)

/-- `A <- r` with the four flags of an arithmetic result (42_alu R223). -/
def State.setArith (s : State) (t : Arith) : State := (s.setA t.r).setP (putArith t s.cpu.p)

/-- ADC, add memory to the accumulator with carry (R223). -/
def adc (m : AddrMode) (s : State) : Option State := do
  let (v, s1) ← readOp m s
  some ((s1.setArith (adder (s1.flag .d) s1.cpu.a v (s1.flag .c))).advance m.length)

/-- `61` ADC ($nn,X) (R223). -/
def execAdcIzx (s : State) : Host.Outcome State Fault Refusal := complete (adc .izx s)

/-- `65` ADC $nn (R223). -/
def execAdcZp (s : State) : Host.Outcome State Fault Refusal := complete (adc .zp s)

/-- `69` ADC #$nn (R223). -/
def execAdcImm (s : State) : Host.Outcome State Fault Refusal := complete (adc .imm s)

/-- `6D` ADC $nnnn (R223). -/
def execAdcAbs (s : State) : Host.Outcome State Fault Refusal := complete (adc .abs s)

/-- `71` ADC ($nn),Y (R223). -/
def execAdcIzy (s : State) : Host.Outcome State Fault Refusal := complete (adc .izy s)

/-- `75` ADC $nn,X (R223). -/
def execAdcZpx (s : State) : Host.Outcome State Fault Refusal := complete (adc .zpx s)

/-- `79` ADC $nnnn,Y (R223). -/
def execAdcAby (s : State) : Host.Outcome State Fault Refusal := complete (adc .aby s)

/-- `7D` ADC $nnnn,X (R223). -/
def execAdcAbx (s : State) : Host.Outcome State Fault Refusal := complete (adc .abx s)

/-- SBC, subtract memory from the accumulator with borrow (R224). -/
def sbc (m : AddrMode) (s : State) : Option State := do
  let (v, s1) ← readOp m s
  some ((s1.setArith (subtracter (s1.flag .d) s1.cpu.a v (s1.flag .c))).advance m.length)

/-- `E1` SBC ($nn,X) (R224). -/
def execSbcIzx (s : State) : Host.Outcome State Fault Refusal := complete (sbc .izx s)

/-- `E5` SBC $nn (R224). -/
def execSbcZp (s : State) : Host.Outcome State Fault Refusal := complete (sbc .zp s)

/-- `E9` SBC #$nn (R224). -/
def execSbcImm (s : State) : Host.Outcome State Fault Refusal := complete (sbc .imm s)

/-- `ED` SBC $nnnn (R224). -/
def execSbcAbs (s : State) : Host.Outcome State Fault Refusal := complete (sbc .abs s)

/-- `F1` SBC ($nn),Y (R224). -/
def execSbcIzy (s : State) : Host.Outcome State Fault Refusal := complete (sbc .izy s)

/-- `F5` SBC $nn,X (R224). -/
def execSbcZpx (s : State) : Host.Outcome State Fault Refusal := complete (sbc .zpx s)

/-- `F9` SBC $nnnn,Y (R224). -/
def execSbcAby (s : State) : Host.Outcome State Fault Refusal := complete (sbc .aby s)

/-- `FD` SBC $nnnn,X (R224). -/
def execSbcAbx (s : State) : Host.Outcome State Fault Refusal := complete (sbc .abx s)

/-- CMP (R225, R233). -/
def cmpA (m : AddrMode) (s : State) : Option State := do
  let (v, s1) ← readOp m s
  some ((s1.setP (putCompare s1.cpu.a v s1.cpu.p)).advance m.length)

/-- `C1` CMP ($nn,X) (R225). -/
def execCmpIzx (s : State) : Host.Outcome State Fault Refusal := complete (cmpA .izx s)

/-- `C5` CMP $nn (R225). -/
def execCmpZp (s : State) : Host.Outcome State Fault Refusal := complete (cmpA .zp s)

/-- `C9` CMP #$nn (R225). -/
def execCmpImm (s : State) : Host.Outcome State Fault Refusal := complete (cmpA .imm s)

/-- `CD` CMP $nnnn (R225). -/
def execCmpAbs (s : State) : Host.Outcome State Fault Refusal := complete (cmpA .abs s)

/-- `D1` CMP ($nn),Y (R225). -/
def execCmpIzy (s : State) : Host.Outcome State Fault Refusal := complete (cmpA .izy s)

/-- `D5` CMP $nn,X (R225). -/
def execCmpZpx (s : State) : Host.Outcome State Fault Refusal := complete (cmpA .zpx s)

/-- `D9` CMP $nnnn,Y (R225). -/
def execCmpAby (s : State) : Host.Outcome State Fault Refusal := complete (cmpA .aby s)

/-- `DD` CMP $nnnn,X (R225). -/
def execCmpAbx (s : State) : Host.Outcome State Fault Refusal := complete (cmpA .abx s)

/-- CPX (R226, R233). -/
def cpx (m : AddrMode) (s : State) : Option State := do
  let (v, s1) ← readOp m s
  some ((s1.setP (putCompare s1.cpu.x v s1.cpu.p)).advance m.length)

/-- `E0` CPX #$nn (R226). -/
def execCpxImm (s : State) : Host.Outcome State Fault Refusal := complete (cpx .imm s)

/-- `E4` CPX $nn (R226). -/
def execCpxZp (s : State) : Host.Outcome State Fault Refusal := complete (cpx .zp s)

/-- `EC` CPX $nnnn (R226). -/
def execCpxAbs (s : State) : Host.Outcome State Fault Refusal := complete (cpx .abs s)

/-- CPY (R227, R233). -/
def cpy (m : AddrMode) (s : State) : Option State := do
  let (v, s1) ← readOp m s
  some ((s1.setP (putCompare s1.cpu.y v s1.cpu.p)).advance m.length)

/-- `C0` CPY #$nn (R227). -/
def execCpyImm (s : State) : Host.Outcome State Fault Refusal := complete (cpy .imm s)

/-- `C4` CPY $nn (R227). -/
def execCpyZp (s : State) : Host.Outcome State Fault Refusal := complete (cpy .zp s)

/-- `CC` CPY $nnnn (R227). -/
def execCpyAbs (s : State) : Host.Outcome State Fault Refusal := complete (cpy .abs s)

/-- BIT, test bits of memory against the accumulator (R228). -/
def bitTest (m : AddrMode) (s : State) : Option State := do
  let (v, s1) ← readOp m s
  some ((s1.setP (putBit s1.cpu.a v s1.cpu.p)).advance m.length)

/-- `24` BIT $nn (R228). -/
def execBitZp (s : State) : Host.Outcome State Fault Refusal := complete (bitTest .zp s)

/-- `2C` BIT $nnnn (R228). -/
def execBitAbs (s : State) : Host.Outcome State Fault Refusal := complete (bitTest .abs s)

end Sys2Proof.Machine
end

