-- ==== Sys2Proof/Machine/Shift.lean ====
section
/-! DEFINITION. Shifts, rotates, increments and decrements (43_rmw_incdec_shift R250 to R260). -/

namespace Sys2Proof.Machine

open Sys2Proof

/-- An accumulator shift or rotate (R250 to R253). -/
def shiftAcc (f : ByteOp) (s : State) : Option State := do
  let s1 ← amImp s
  let (r, p) := f s1.cpu.a s1.cpu.p
  some (((s1.setA r).setP p).advance 1)

/-- A read-modify-write of memory (R250 to R255). -/
def modifyMem (m : AddrMode) (f : ByteOp) (s : State) : Option State := do
  let (_, s1) ← rmwOp m f s
  some (s1.advance m.length)

/-- `06` ASL $nn (R250). -/
def execAslZp (s : State) : Host.Outcome State Fault Refusal := complete (modifyMem .zp aslOp s)

/-- `0A` ASL A (R250). -/
def execAslAcc (s : State) : Host.Outcome State Fault Refusal := complete (shiftAcc aslOp s)

/-- `0E` ASL $nnnn (R250). -/
def execAslAbs (s : State) : Host.Outcome State Fault Refusal := complete (modifyMem .abs aslOp s)

/-- `16` ASL $nn,X (R250). -/
def execAslZpx (s : State) : Host.Outcome State Fault Refusal := complete (modifyMem .zpx aslOp s)

/-- `1E` ASL $nnnn,X (R250). -/
def execAslAbx (s : State) : Host.Outcome State Fault Refusal := complete (modifyMem .abx aslOp s)

/-- `46` LSR $nn (R251). -/
def execLsrZp (s : State) : Host.Outcome State Fault Refusal := complete (modifyMem .zp lsrOp s)

/-- `4A` LSR A (R251). -/
def execLsrAcc (s : State) : Host.Outcome State Fault Refusal := complete (shiftAcc lsrOp s)

/-- `4E` LSR $nnnn (R251). -/
def execLsrAbs (s : State) : Host.Outcome State Fault Refusal := complete (modifyMem .abs lsrOp s)

/-- `56` LSR $nn,X (R251). -/
def execLsrZpx (s : State) : Host.Outcome State Fault Refusal := complete (modifyMem .zpx lsrOp s)

/-- `5E` LSR $nnnn,X (R251). -/
def execLsrAbx (s : State) : Host.Outcome State Fault Refusal := complete (modifyMem .abx lsrOp s)

/-- `26` ROL $nn (R252). -/
def execRolZp (s : State) : Host.Outcome State Fault Refusal := complete (modifyMem .zp rolOp s)

/-- `2A` ROL A (R252). -/
def execRolAcc (s : State) : Host.Outcome State Fault Refusal := complete (shiftAcc rolOp s)

/-- `2E` ROL $nnnn (R252). -/
def execRolAbs (s : State) : Host.Outcome State Fault Refusal := complete (modifyMem .abs rolOp s)

/-- `36` ROL $nn,X (R252). -/
def execRolZpx (s : State) : Host.Outcome State Fault Refusal := complete (modifyMem .zpx rolOp s)

/-- `3E` ROL $nnnn,X (R252). -/
def execRolAbx (s : State) : Host.Outcome State Fault Refusal := complete (modifyMem .abx rolOp s)

/-- `66` ROR $nn (R253). -/
def execRorZp (s : State) : Host.Outcome State Fault Refusal := complete (modifyMem .zp rorOp s)

/-- `6A` ROR A (R253). -/
def execRorAcc (s : State) : Host.Outcome State Fault Refusal := complete (shiftAcc rorOp s)

/-- `6E` ROR $nnnn (R253). -/
def execRorAbs (s : State) : Host.Outcome State Fault Refusal := complete (modifyMem .abs rorOp s)

/-- `76` ROR $nn,X (R253). -/
def execRorZpx (s : State) : Host.Outcome State Fault Refusal := complete (modifyMem .zpx rorOp s)

/-- `7E` ROR $nnnn,X (R253). -/
def execRorAbx (s : State) : Host.Outcome State Fault Refusal := complete (modifyMem .abx rorOp s)

/-- `E6` INC $nn (R254). -/
def execIncZp (s : State) : Host.Outcome State Fault Refusal := complete (modifyMem .zp incOp s)

/-- `EE` INC $nnnn (R254). -/
def execIncAbs (s : State) : Host.Outcome State Fault Refusal := complete (modifyMem .abs incOp s)

/-- `F6` INC $nn,X (R254). -/
def execIncZpx (s : State) : Host.Outcome State Fault Refusal := complete (modifyMem .zpx incOp s)

/-- `FE` INC $nnnn,X (R254). -/
def execIncAbx (s : State) : Host.Outcome State Fault Refusal := complete (modifyMem .abx incOp s)

/-- `C6` DEC $nn (R255). -/
def execDecZp (s : State) : Host.Outcome State Fault Refusal := complete (modifyMem .zp decOp s)

/-- `CE` DEC $nnnn (R255). -/
def execDecAbs (s : State) : Host.Outcome State Fault Refusal := complete (modifyMem .abs decOp s)

/-- `D6` DEC $nn,X (R255). -/
def execDecZpx (s : State) : Host.Outcome State Fault Refusal := complete (modifyMem .zpx decOp s)

/-- `DE` DEC $nnnn,X (R255). -/
def execDecAbx (s : State) : Host.Outcome State Fault Refusal := complete (modifyMem .abx decOp s)

/-- INX (R256). -/
def inx (s : State) : Option State := do
  let s1 ← amImp s
  let (r, p) := incOp s1.cpu.x s1.cpu.p
  some (((s1.setX r).setP p).advance 1)

/-- `E8` INX (R256). -/
def execInx (s : State) : Host.Outcome State Fault Refusal := complete (inx s)

/-- INY (R257). -/
def iny (s : State) : Option State := do
  let s1 ← amImp s
  let (r, p) := incOp s1.cpu.y s1.cpu.p
  some (((s1.setY r).setP p).advance 1)

/-- `C8` INY (R257). -/
def execIny (s : State) : Host.Outcome State Fault Refusal := complete (iny s)

/-- DEX (R258). -/
def dex (s : State) : Option State := do
  let s1 ← amImp s
  let (r, p) := decOp s1.cpu.x s1.cpu.p
  some (((s1.setX r).setP p).advance 1)

/-- `CA` DEX (R258). -/
def execDex (s : State) : Host.Outcome State Fault Refusal := complete (dex s)

/-- DEY (R259). -/
def dey (s : State) : Option State := do
  let s1 ← amImp s
  let (r, p) := decOp s1.cpu.y s1.cpu.p
  some (((s1.setY r).setP p).advance 1)

/-- `88` DEY (R259). -/
def execDey (s : State) : Host.Outcome State Fault Refusal := complete (dey s)

end Sys2Proof.Machine
end

