-- ==== Sys2Proof/Machine/Control.lean ====
section
/-! DEFINITION. Control transfer: branches, jumps, subroutine call and return (44_control R280 to R293). -/

namespace Sys2Proof.Machine

open Sys2Proof

/-- The common branch sequence (R280): the displacement always, one extra fetch if taken, a second one if the target
lies in another page than the next instruction. -/
def branch (cond : Bool) (s : State) : Option State := do
  let (d, s1) ← memRead (s.cpu.pc + 1) s
  let next := s.cpu.pc + 2
  if cond then
    let (_, s2) ← memRead next s1
    let target := next + sext16 d
    if hi8 target = hi8 next then some (s2.setPc target)
    else
      let (_, s3) ← memRead (cat (hi8 next) (lo8 target)) s2
      some (s3.setPc target)
  else some (s1.setPc next)

/-- `10` BPL $nnnn (rel) (R281). -/
def execBpl (s : State) : Host.Outcome State Fault Refusal := complete (branch (!s.flag .n) s)

/-- `30` BMI $nnnn (rel) (R282). -/
def execBmi (s : State) : Host.Outcome State Fault Refusal := complete (branch (s.flag .n) s)

/-- `50` BVC $nnnn (rel) (R283). -/
def execBvc (s : State) : Host.Outcome State Fault Refusal := complete (branch (!s.flag .v) s)

/-- `70` BVS $nnnn (rel) (R284). -/
def execBvs (s : State) : Host.Outcome State Fault Refusal := complete (branch (s.flag .v) s)

/-- `90` BCC $nnnn (rel) (R285). -/
def execBcc (s : State) : Host.Outcome State Fault Refusal := complete (branch (!s.flag .c) s)

/-- `B0` BCS $nnnn (rel) (R286). -/
def execBcs (s : State) : Host.Outcome State Fault Refusal := complete (branch (s.flag .c) s)

/-- `D0` BNE $nnnn (rel) (R287). -/
def execBne (s : State) : Host.Outcome State Fault Refusal := complete (branch (!s.flag .z) s)

/-- `F0` BEQ $nnnn (rel) (R288). -/
def execBeq (s : State) : Host.Outcome State Fault Refusal := complete (branch (s.flag .z) s)

/-- JMP absolute (R290). -/
def jmp (s : State) : Option State := do
  let (target, s1) ← operandWord s
  some (s1.setPc target)

/-- `4C` JMP $nnnn (R290). -/
def execJmpAbs (s : State) : Host.Outcome State Fault Refusal := complete (jmp s)

/-- JMP indirect (R291): the high byte of the pointer is not incremented, so a pointer at the end of a page wraps. -/
def jmpIndirect (s : State) : Option State := do
  let (ptr, s1) ← operandWord s
  let (tl, s2) ← memRead ptr s1
  let (th, s3) ← memRead (cat (hi8 ptr) (lo8 ptr + 1)) s2
  some (s3.setPc (cat th tl))

/-- `6C` JMP ($nnnn) (R291). -/
def execJmpInd (s : State) : Host.Outcome State Fault Refusal := complete (jmpIndirect s)

/-- JSR (R292): it pushes the address of its own last byte, and reads its high operand byte after the pushes. -/
def jsr (s : State) : Option State := do
  let (lo, s1) ← memRead (s.cpu.pc + 1) s
  let (_, s2) ← memRead (stackAddr s1) s1
  let s3 := pushWord (s.cpu.pc + 2) s2
  let (hi, s4) ← memRead (s.cpu.pc + 2) s3
  some (s4.setPc (cat hi lo))

/-- `20` JSR $nnnn (R292). -/
def execJsr (s : State) : Host.Outcome State Fault Refusal := complete (jsr s)

/-- RTS (R293): one more than the pulled address, at which it makes a dummy read. -/
def rts (s : State) : Option State := do
  let s1 ← amImp s
  let (_, s2) ← memRead (stackAddr s1) s1
  let (t, s3) ← pullWord s2
  let (_, s4) ← memRead t s3
  some (s4.setPc (t + 1))

/-- `60` RTS (R293). -/
def execRts (s : State) : Host.Outcome State Fault Refusal := complete (rts s)

end Sys2Proof.Machine
end

