-- ==== Sys2Proof/Machine/System.lean ====
section
/-! DEFINITION. Stack, flag and system instructions (45_stack_flag_system R310 to R331). -/

namespace Sys2Proof.Machine

open Sys2Proof

/-- PHA (R310). -/
def pha (s : State) : Option State := do
  let s1 ← amImp s
  some ((push s1.cpu.a s1).advance 1)

/-- `48` PHA (R310). -/
def execPha (s : State) : Host.Outcome State Fault Refusal := complete (pha s)

/-- PLA (R311): a dummy read of the stack top, then the pull. -/
def pla (s : State) : Option State := do
  let s1 ← amImp s
  let (_, s2) ← memRead (stackAddr s1) s1
  let (v, s3) ← pull s2
  some (((s3.setA v).setNZ v).advance 1)

/-- `68` PLA (R311). -/
def execPla (s : State) : Host.Outcome State Fault Refusal := complete (pla s)

/-- PHP (R312): bits 4 and 5 of the pushed byte are set whatever the stored `B` is. -/
def php (s : State) : Option State := do
  let s1 ← amImp s
  some ((push (s1.cpu.p ||| 0x30) s1).advance 1)

/-- `08` PHP (R312). -/
def execPhp (s : State) : Host.Outcome State Fault Refusal := complete (php s)

/-- PLP (R313). -/
def plp (s : State) : Option State := do
  let s1 ← amImp s
  let (_, s2) ← memRead (stackAddr s1) s1
  let (v, s3) ← pull s2
  some ((s3.setP (flagsFrom v)).advance 1)

/-- `28` PLP (R313). -/
def execPlp (s : State) : Host.Outcome State Fault Refusal := complete (plp s)

/-- An instruction that writes one flag (R314 to R320). -/
def writeFlag (f : Flag) (on : Bool) (s : State) : Option State := do
  let s1 ← amImp s
  some ((s1.setFlag f on).advance 1)

/-- `18` CLC (R314). -/
def execClc (s : State) : Host.Outcome State Fault Refusal := complete (writeFlag .c false s)

/-- `38` SEC (R315). -/
def execSec (s : State) : Host.Outcome State Fault Refusal := complete (writeFlag .c true s)

/-- `58` CLI (R316). -/
def execCli (s : State) : Host.Outcome State Fault Refusal := complete (writeFlag .i false s)

/-- `78` SEI (R317). -/
def execSei (s : State) : Host.Outcome State Fault Refusal := complete (writeFlag .i true s)

/-- `D8` CLD (R318). -/
def execCld (s : State) : Host.Outcome State Fault Refusal := complete (writeFlag .d false s)

/-- `F8` SED (R319). -/
def execSed (s : State) : Host.Outcome State Fault Refusal := complete (writeFlag .d true s)

/-- `B8` CLV (R320). -/
def execClv (s : State) : Host.Outcome State Fault Refusal := complete (writeFlag .v false s)

/-- An implied no-op (R321, 46_illegal R355). -/
def nopImplied (s : State) : Option State := do
  let s1 ← amImp s
  some (s1.advance 1)

/-- `EA` NOP (R321). -/
def execNop (s : State) : Host.Outcome State Fault Refusal := complete (nopImplied s)

/-- BRK (R330): the padding byte is read, then the exception with `B = 1` and the return address `PC + 2`. -/
def brk (s : State) : Option State := do
  let s1 ← amImp s
  takeException (s.cpu.pc + 2) true s.cfg.vecIrq s1

/-- `00` BRK (R330). -/
def execBrk (s : State) : Host.Outcome State Fault Refusal := complete (brk s)

/-- RTI (R331). -/
def rti (s : State) : Option State := do
  let s1 ← amImp s
  let (_, s2) ← memRead (stackAddr s1) s1
  returnFromException s2

/-- `40` RTI (R331). -/
def execRti (s : State) : Host.Outcome State Fault Refusal := complete (rti s)

end Sys2Proof.Machine
end

