-- ==== Sys2Proof/Machine/Illegal.lean ====
section
/-! DEFINITION. The illegal opcodes (46_illegal R340 to R372). -/

namespace Sys2Proof.Machine

open Sys2Proof

/-- SLO: ASL memory, then ORA (R341). -/
def slo (m : AddrMode) (s : State) : Option State := do
  let (r, s1) ← rmwOp m aslOp s
  let a := s1.cpu.a ||| r
  some (((s1.setA a).setNZ a).advance m.length)

/-- `03` SLO ($nn,X) (R341). -/
def execSloIzx (s : State) : Host.Outcome State Fault Refusal := complete (slo .izx s)

/-- `07` SLO $nn (R341). -/
def execSloZp (s : State) : Host.Outcome State Fault Refusal := complete (slo .zp s)

/-- `0F` SLO $nnnn (R341). -/
def execSloAbs (s : State) : Host.Outcome State Fault Refusal := complete (slo .abs s)

/-- `13` SLO ($nn),Y (R341). -/
def execSloIzy (s : State) : Host.Outcome State Fault Refusal := complete (slo .izy s)

/-- `17` SLO $nn,X (R341). -/
def execSloZpx (s : State) : Host.Outcome State Fault Refusal := complete (slo .zpx s)

/-- `1B` SLO $nnnn,Y (R341). -/
def execSloAby (s : State) : Host.Outcome State Fault Refusal := complete (slo .aby s)

/-- `1F` SLO $nnnn,X (R341). -/
def execSloAbx (s : State) : Host.Outcome State Fault Refusal := complete (slo .abx s)

/-- RLA: ROL memory, then AND (R342). -/
def rla (m : AddrMode) (s : State) : Option State := do
  let (r, s1) ← rmwOp m rolOp s
  let a := s1.cpu.a &&& r
  some (((s1.setA a).setNZ a).advance m.length)

/-- `23` RLA ($nn,X) (R342). -/
def execRlaIzx (s : State) : Host.Outcome State Fault Refusal := complete (rla .izx s)

/-- `27` RLA $nn (R342). -/
def execRlaZp (s : State) : Host.Outcome State Fault Refusal := complete (rla .zp s)

/-- `2F` RLA $nnnn (R342). -/
def execRlaAbs (s : State) : Host.Outcome State Fault Refusal := complete (rla .abs s)

/-- `33` RLA ($nn),Y (R342). -/
def execRlaIzy (s : State) : Host.Outcome State Fault Refusal := complete (rla .izy s)

/-- `37` RLA $nn,X (R342). -/
def execRlaZpx (s : State) : Host.Outcome State Fault Refusal := complete (rla .zpx s)

/-- `3B` RLA $nnnn,Y (R342). -/
def execRlaAby (s : State) : Host.Outcome State Fault Refusal := complete (rla .aby s)

/-- `3F` RLA $nnnn,X (R342). -/
def execRlaAbx (s : State) : Host.Outcome State Fault Refusal := complete (rla .abx s)

/-- SRE: LSR memory, then EOR (R343). -/
def sre (m : AddrMode) (s : State) : Option State := do
  let (r, s1) ← rmwOp m lsrOp s
  let a := s1.cpu.a ^^^ r
  some (((s1.setA a).setNZ a).advance m.length)

/-- `43` SRE ($nn,X) (R343). -/
def execSreIzx (s : State) : Host.Outcome State Fault Refusal := complete (sre .izx s)

/-- `47` SRE $nn (R343). -/
def execSreZp (s : State) : Host.Outcome State Fault Refusal := complete (sre .zp s)

/-- `4F` SRE $nnnn (R343). -/
def execSreAbs (s : State) : Host.Outcome State Fault Refusal := complete (sre .abs s)

/-- `53` SRE ($nn),Y (R343). -/
def execSreIzy (s : State) : Host.Outcome State Fault Refusal := complete (sre .izy s)

/-- `57` SRE $nn,X (R343). -/
def execSreZpx (s : State) : Host.Outcome State Fault Refusal := complete (sre .zpx s)

/-- `5B` SRE $nnnn,Y (R343). -/
def execSreAby (s : State) : Host.Outcome State Fault Refusal := complete (sre .aby s)

/-- `5F` SRE $nnnn,X (R343). -/
def execSreAbx (s : State) : Host.Outcome State Fault Refusal := complete (sre .abx s)

/-- RRA: ROR memory, then ADC with the carry the ROR wrote (R344). -/
def rra (m : AddrMode) (s : State) : Option State := do
  let (r, s1) ← rmwOp m rorOp s
  some ((s1.setArith (adder (s1.flag .d) s1.cpu.a r (s1.flag .c))).advance m.length)

/-- `63` RRA ($nn,X) (R344). -/
def execRraIzx (s : State) : Host.Outcome State Fault Refusal := complete (rra .izx s)

/-- `67` RRA $nn (R344). -/
def execRraZp (s : State) : Host.Outcome State Fault Refusal := complete (rra .zp s)

/-- `6F` RRA $nnnn (R344). -/
def execRraAbs (s : State) : Host.Outcome State Fault Refusal := complete (rra .abs s)

/-- `73` RRA ($nn),Y (R344). -/
def execRraIzy (s : State) : Host.Outcome State Fault Refusal := complete (rra .izy s)

/-- `77` RRA $nn,X (R344). -/
def execRraZpx (s : State) : Host.Outcome State Fault Refusal := complete (rra .zpx s)

/-- `7B` RRA $nnnn,Y (R344). -/
def execRraAby (s : State) : Host.Outcome State Fault Refusal := complete (rra .aby s)

/-- `7F` RRA $nnnn,X (R344). -/
def execRraAbx (s : State) : Host.Outcome State Fault Refusal := complete (rra .abx s)

/-- DCP: DEC memory, then CMP (R345). -/
def dcp (m : AddrMode) (s : State) : Option State := do
  let (r, s1) ← rmwOp m decSilent s
  some ((s1.setP (putCompare s1.cpu.a r s1.cpu.p)).advance m.length)

/-- `C3` DCP ($nn,X) (R345). -/
def execDcpIzx (s : State) : Host.Outcome State Fault Refusal := complete (dcp .izx s)

/-- `C7` DCP $nn (R345). -/
def execDcpZp (s : State) : Host.Outcome State Fault Refusal := complete (dcp .zp s)

/-- `CF` DCP $nnnn (R345). -/
def execDcpAbs (s : State) : Host.Outcome State Fault Refusal := complete (dcp .abs s)

/-- `D3` DCP ($nn),Y (R345). -/
def execDcpIzy (s : State) : Host.Outcome State Fault Refusal := complete (dcp .izy s)

/-- `D7` DCP $nn,X (R345). -/
def execDcpZpx (s : State) : Host.Outcome State Fault Refusal := complete (dcp .zpx s)

/-- `DB` DCP $nnnn,Y (R345). -/
def execDcpAby (s : State) : Host.Outcome State Fault Refusal := complete (dcp .aby s)

/-- `DF` DCP $nnnn,X (R345). -/
def execDcpAbx (s : State) : Host.Outcome State Fault Refusal := complete (dcp .abx s)

/-- ISC: INC memory, then SBC (R346). -/
def isc (m : AddrMode) (s : State) : Option State := do
  let (r, s1) ← rmwOp m incSilent s
  some ((s1.setArith (subtracter (s1.flag .d) s1.cpu.a r (s1.flag .c))).advance m.length)

/-- `E3` ISC ($nn,X) (R346). -/
def execIscIzx (s : State) : Host.Outcome State Fault Refusal := complete (isc .izx s)

/-- `E7` ISC $nn (R346). -/
def execIscZp (s : State) : Host.Outcome State Fault Refusal := complete (isc .zp s)

/-- `EF` ISC $nnnn (R346). -/
def execIscAbs (s : State) : Host.Outcome State Fault Refusal := complete (isc .abs s)

/-- `F3` ISC ($nn),Y (R346). -/
def execIscIzy (s : State) : Host.Outcome State Fault Refusal := complete (isc .izy s)

/-- `F7` ISC $nn,X (R346). -/
def execIscZpx (s : State) : Host.Outcome State Fault Refusal := complete (isc .zpx s)

/-- `FB` ISC $nnnn,Y (R346). -/
def execIscAby (s : State) : Host.Outcome State Fault Refusal := complete (isc .aby s)

/-- `FF` ISC $nnnn,X (R346). -/
def execIscAbx (s : State) : Host.Outcome State Fault Refusal := complete (isc .abx s)

/-- SAX: store `A & X` (R347). -/
def sax (m : AddrMode) (s : State) : Option State := do
  let s1 ← writeOp m (s.cpu.a &&& s.cpu.x) s
  some (s1.advance m.length)

/-- `83` SAX ($nn,X) (R347). -/
def execSaxIzx (s : State) : Host.Outcome State Fault Refusal := complete (sax .izx s)

/-- `87` SAX $nn (R347). -/
def execSaxZp (s : State) : Host.Outcome State Fault Refusal := complete (sax .zp s)

/-- `8F` SAX $nnnn (R347). -/
def execSaxAbs (s : State) : Host.Outcome State Fault Refusal := complete (sax .abs s)

/-- `97` SAX $nn,Y (R347). -/
def execSaxZpy (s : State) : Host.Outcome State Fault Refusal := complete (sax .zpy s)

/-- LAX: load `A` and `X` with the same byte (R348). -/
def lax (m : AddrMode) (s : State) : Option State := do
  let (v, s1) ← readOp m s
  some ((((s1.setA v).setX v).setNZ v).advance m.length)

/-- `A3` LAX ($nn,X) (R348). -/
def execLaxIzx (s : State) : Host.Outcome State Fault Refusal := complete (lax .izx s)

/-- `A7` LAX $nn (R348). -/
def execLaxZp (s : State) : Host.Outcome State Fault Refusal := complete (lax .zp s)

/-- `AF` LAX $nnnn (R348). -/
def execLaxAbs (s : State) : Host.Outcome State Fault Refusal := complete (lax .abs s)

/-- `B3` LAX ($nn),Y (R348). -/
def execLaxIzy (s : State) : Host.Outcome State Fault Refusal := complete (lax .izy s)

/-- `B7` LAX $nn,Y (R348). -/
def execLaxZpy (s : State) : Host.Outcome State Fault Refusal := complete (lax .zpy s)

/-- `BF` LAX $nnnn,Y (R348). -/
def execLaxAby (s : State) : Host.Outcome State Fault Refusal := complete (lax .aby s)

/-- ANC: AND immediate, then copy `N` into `C` (R349). -/
def anc (s : State) : Option State := do
  let (v, s1) ← readOp .imm s
  let (r, p) := ancOp s1.cpu.a v s1.cpu.p
  some (((s1.setA r).setP p).advance 2)

/-- `0B` ANC #$nn (R349). -/
def execAnc0B (s : State) : Host.Outcome State Fault Refusal := complete (anc s)

/-- `2B` ANC #$nn (R349). -/
def execAnc2B (s : State) : Host.Outcome State Fault Refusal := complete (anc s)

/-- ALR: AND immediate, then LSR A (R350). -/
def alr (s : State) : Option State := do
  let (v, s1) ← readOp .imm s
  let (r, p) := lsrOp (s1.cpu.a &&& v) s1.cpu.p
  some (((s1.setA r).setP p).advance 2)

/-- `4B` ALR #$nn (R350). -/
def execAlrImm (s : State) : Host.Outcome State Fault Refusal := complete (alr s)

/-- ARR with `D = 1`: `A` and `N`, `V`, `Z`, `C` are free values (R351, 93_implementation_defined U4; log 22). -/
def arrUnspecified (s : State) : State :=
  { (s.setA (Config.freeByte s.free)).setP (putFreeNVZC (Config.freeByte (s.free + 1)) s.cpu.p) with
    free := s.free + 2 }

/-- ARR: AND immediate, then ROR A with its own `C` and `V` (R351). -/
def arr (s : State) : Option State := do
  let (v, s1) ← readOp .imm s
  if s1.flag .d then some ((arrUnspecified s1).advance 2)
  else
    let (r, p) := arrOp s1.cpu.a v s1.cpu.p
    some (((s1.setA r).setP p).advance 2)

/-- `6B` ARR #$nn (R351). -/
def execArrImm (s : State) : Host.Outcome State Fault Refusal := complete (arr s)

/-- SBX: `X <- (A & X) - immediate` (R352). -/
def sbx (s : State) : Option State := do
  let (v, s1) ← readOp .imm s
  let (r, p) := sbxOp s1.cpu.a s1.cpu.x v s1.cpu.p
  some (((s1.setX r).setP p).advance 2)

/-- `CB` SBX #$nn (R352). -/
def execSbxImm (s : State) : Host.Outcome State Fault Refusal := complete (sbx s)

/-- LAS: `A`, `X`, `SP` all take `M & SP` (R353). -/
def las (s : State) : Option State := do
  let (v, s1) ← readOp .aby s
  let r := v &&& s1.cpu.sp
  some (((((s1.setA r).setX r).setSp r).setNZ r).advance 3)

/-- `BB` LAS $nnnn,Y (R353). -/
def execLasAby (s : State) : Host.Outcome State Fault Refusal := complete (las s)

/-- `EB` SBC #$nn (R354). -/
def execSbcImmEB (s : State) : Host.Outcome State Fault Refusal := complete (sbc .imm s)

/-- `1A` NOP (R355). -/
def execNop1A (s : State) : Host.Outcome State Fault Refusal := complete (nopImplied s)

/-- `3A` NOP (R355). -/
def execNop3A (s : State) : Host.Outcome State Fault Refusal := complete (nopImplied s)

/-- `5A` NOP (R355). -/
def execNop5A (s : State) : Host.Outcome State Fault Refusal := complete (nopImplied s)

/-- `7A` NOP (R355). -/
def execNop7A (s : State) : Host.Outcome State Fault Refusal := complete (nopImplied s)

/-- `DA` NOP (R355). -/
def execNopDA (s : State) : Host.Outcome State Fault Refusal := complete (nopImplied s)

/-- `FA` NOP (R355). -/
def execNopFA (s : State) : Host.Outcome State Fault Refusal := complete (nopImplied s)

/-- An illegal no-op with an operand: it makes its mode's reads and discards the byte (R356 to R360). -/
def nopRead (m : AddrMode) (s : State) : Option State := do
  let (_, s1) ← readOp m s
  some (s1.advance m.length)

/-- `04` NOP $nn (R357). -/
def execNop04 (s : State) : Host.Outcome State Fault Refusal := complete (nopRead .zp s)

/-- `0C` NOP $nnnn (R359). -/
def execNop0C (s : State) : Host.Outcome State Fault Refusal := complete (nopRead .abs s)

/-- `14` NOP $nn,X (R358). -/
def execNop14 (s : State) : Host.Outcome State Fault Refusal := complete (nopRead .zpx s)

/-- `1C` NOP $nnnn,X (R360). -/
def execNop1C (s : State) : Host.Outcome State Fault Refusal := complete (nopRead .abx s)

/-- `34` NOP $nn,X (R358). -/
def execNop34 (s : State) : Host.Outcome State Fault Refusal := complete (nopRead .zpx s)

/-- `3C` NOP $nnnn,X (R360). -/
def execNop3C (s : State) : Host.Outcome State Fault Refusal := complete (nopRead .abx s)

/-- `44` NOP $nn (R357). -/
def execNop44 (s : State) : Host.Outcome State Fault Refusal := complete (nopRead .zp s)

/-- `54` NOP $nn,X (R358). -/
def execNop54 (s : State) : Host.Outcome State Fault Refusal := complete (nopRead .zpx s)

/-- `5C` NOP $nnnn,X (R360). -/
def execNop5C (s : State) : Host.Outcome State Fault Refusal := complete (nopRead .abx s)

/-- `64` NOP $nn (R357). -/
def execNop64 (s : State) : Host.Outcome State Fault Refusal := complete (nopRead .zp s)

/-- `74` NOP $nn,X (R358). -/
def execNop74 (s : State) : Host.Outcome State Fault Refusal := complete (nopRead .zpx s)

/-- `7C` NOP $nnnn,X (R360). -/
def execNop7C (s : State) : Host.Outcome State Fault Refusal := complete (nopRead .abx s)

/-- `80` NOP #$nn (R356). -/
def execNop80 (s : State) : Host.Outcome State Fault Refusal := complete (nopRead .imm s)

/-- `82` NOP #$nn (R356). -/
def execNop82 (s : State) : Host.Outcome State Fault Refusal := complete (nopRead .imm s)

/-- `89` NOP #$nn (R356). -/
def execNop89 (s : State) : Host.Outcome State Fault Refusal := complete (nopRead .imm s)

/-- `C2` NOP #$nn (R356). -/
def execNopC2 (s : State) : Host.Outcome State Fault Refusal := complete (nopRead .imm s)

/-- `D4` NOP $nn,X (R358). -/
def execNopD4 (s : State) : Host.Outcome State Fault Refusal := complete (nopRead .zpx s)

/-- `DC` NOP $nnnn,X (R360). -/
def execNopDC (s : State) : Host.Outcome State Fault Refusal := complete (nopRead .abx s)

/-- `E2` NOP #$nn (R356). -/
def execNopE2 (s : State) : Host.Outcome State Fault Refusal := complete (nopRead .imm s)

/-- `F4` NOP $nn,X (R358). -/
def execNopF4 (s : State) : Host.Outcome State Fault Refusal := complete (nopRead .zpx s)

/-- `FC` NOP $nnnn,X (R360). -/
def execNopFC (s : State) : Host.Outcome State Fault Refusal := complete (nopRead .abx s)

/-- `UnstableNop(2)` (R365): the operand byte is fetched and discarded. -/
def unstableNop2 (s : State) : Option State := do
  let (_, s1) ← memRead (s.cpu.pc + 1) s
  some (s1.advance 2)

/-- `UnstableNop(3)` (R365): the two operand bytes are fetched and discarded. -/
def unstableNop3 (s : State) : Option State := do
  let (_, s1) ← operandWord s
  some (s1.advance 3)

/-- `93` SHA ($nn),Y (R366). -/
def execShaIzy (s : State) : Host.Outcome State Fault Refusal := complete (unstableNop2 s)

/-- `9F` SHA $nnnn,Y (R366). -/
def execShaAby (s : State) : Host.Outcome State Fault Refusal := complete (unstableNop3 s)

/-- `9E` SHX $nnnn,Y (R367). -/
def execShxAby (s : State) : Host.Outcome State Fault Refusal := complete (unstableNop3 s)

/-- `9C` SHY $nnnn,X (R368). -/
def execShyAbx (s : State) : Host.Outcome State Fault Refusal := complete (unstableNop3 s)

/-- `9B` TAS $nnnn,Y (R369). -/
def execTasAby (s : State) : Host.Outcome State Fault Refusal := complete (unstableNop3 s)

/-- `8B` ANE #$nn (R370). -/
def execAneImm (s : State) : Host.Outcome State Fault Refusal := complete (unstableNop2 s)

/-- LXA, by the parameter `LXA_BEHAVIOUR` (R371). -/
def lxa (s : State) : Option State :=
  match s.cfg.lxa with
  | .nop2 => unstableNop2 s
  | .laxImm => lax .imm s

/-- `AB` LXA #$nn (R371). -/
def execLxaImm (s : State) : Host.Outcome State Fault Refusal := complete (lxa s)

/-- JAM (R372): the engine is halted, with no access after the opcode fetch and `PC` at the JAM opcode. -/
def jam (s : State) : Option State := some (s.setSched { s.sched with halted := true })

/-- `02` JAM (R372). -/
def execJam02 (s : State) : Host.Outcome State Fault Refusal := complete (jam s)

/-- `12` JAM (R372). -/
def execJam12 (s : State) : Host.Outcome State Fault Refusal := complete (jam s)

/-- `22` JAM (R372). -/
def execJam22 (s : State) : Host.Outcome State Fault Refusal := complete (jam s)

/-- `32` JAM (R372). -/
def execJam32 (s : State) : Host.Outcome State Fault Refusal := complete (jam s)

/-- `42` JAM (R372). -/
def execJam42 (s : State) : Host.Outcome State Fault Refusal := complete (jam s)

/-- `52` JAM (R372). -/
def execJam52 (s : State) : Host.Outcome State Fault Refusal := complete (jam s)

/-- `62` JAM (R372). -/
def execJam62 (s : State) : Host.Outcome State Fault Refusal := complete (jam s)

/-- `72` JAM (R372). -/
def execJam72 (s : State) : Host.Outcome State Fault Refusal := complete (jam s)

/-- `92` JAM (R372). -/
def execJam92 (s : State) : Host.Outcome State Fault Refusal := complete (jam s)

/-- `B2` JAM (R372). -/
def execJamB2 (s : State) : Host.Outcome State Fault Refusal := complete (jam s)

/-- `D2` JAM (R372). -/
def execJamD2 (s : State) : Host.Outcome State Fault Refusal := complete (jam s)

/-- `F2` JAM (R372). -/
def execJamF2 (s : State) : Host.Outcome State Fault Refusal := complete (jam s)

end Sys2Proof.Machine
end

