-- ==== Sys2Proof/Machine/Scheduler.lean ====
section
/-! DEFINITION. The interrupt poll (60_exceptions R401 to R415), the host commands (R446) and the parts of the main loop
(R440 to R445) that run no instruction. -/

namespace Sys2Proof.Machine

open Sys2Proof

/-- Replaces the run mode. -/
def State.setRunMode (s : State) (m : RunMode) : State := s.setSched { s.sched with runMode := m }

/-- The levels of the poll that comes next: the next scripted ones, or the partner's constant levels (R402; log 7). -/
def nextLevels (s : State) : Levels :=
  match s.polls with
  | l :: _ => l
  | [] =>
    { resetL := s.bus.partner.lines.reset, nmiL := s.bus.partner.lines.nmi, irqL := s.bus.partner.lines.irq }

/-- `edge <- nmi_l and not nmi_prev` (R404). -/
def nmiEdge (s : State) : Bool := (nextLevels s).nmiL && !s.sched.nmiPrev

/-- Uses the poll's levels up: the script moves on, and `nmi_prev <- nmi_l`, taken or not (R404). -/
def consumePoll (s : State) : State :=
  { s with
    polls := s.polls.tail
    sched := { s.sched with nmiPrev := (nextLevels s).nmiL } }

/-- The RESET line is acted on in `Running` only (R415, R441). -/
def resetTaken (s : State) : Bool := decide (s.sched.runMode = .running) && (nextLevels s).resetL

/-- An IRQ is recognised when its level is active and `I` is clear (R403). -/
def irqTaken (s : State) : Bool := (nextLevels s).irqL && !s.flag .i

/-- Step 2 of the main loop: the poll, with the priority RESET, NMI, IRQ; at most one is taken (R415, R440). -/
def poll (s : State) : Option State :=
  let s1 := consumePoll s
  if resetTaken s then some (s1.setRunMode .resetting)
  else if nmiEdge s then interrupt s.cfg.vecNmi s1
  else if irqTaken s then interrupt s.cfg.vecIrq s1
  else some s1

/-- Emits the pair of one fetched instruction (R445). -/
def traceFetch (s : State) : State :=
  if s.sched.traceEnable then
    { s with
      out := { s.out with trace := (s.sched.traceSeq, s.cpu.pc) :: s.out.trace }
      sched := { s.sched with traceSeq := s.sched.traceSeq + 1 } }
  else s

/-- Step 3 of the main loop: the opcode fetch and the trace (R440). -/
def fetchOpcode (s : State) : Option (Byte × State) := do
  let (op, s1) ← memFetch s.cpu.pc s
  some (op, traceFetch (s1.setSched { s1.sched with ir := some op }))

/-- A fence is violated by an address outside it (R443). -/
def fenceViolated (f : Option (Addr × Addr)) (pc : Addr) : Bool :=
  match f with
  | some (lo, hi) => !(decide (lo ≤ pc) && decide (pc ≤ hi))
  | none => false

/-- `StopCondition(PC)` (R443). -/
def stopCondition (s : State) : Bool :=
  decide (s.sched.breakpoint = some s.cpu.pc) || decide (s.sched.runTo = some s.cpu.pc) ||
    fenceViolated s.sched.fence s.cpu.pc || s.sched.cancelRequested

/-- Stop conditions are evaluated in `Running` only (R440 step 4, R443). -/
def mustStop (s : State) : Bool := decide (s.sched.runMode = .running) && stopCondition s

/-- The transition to `Waiting` at a stop: `run_to` and the cancel request are cleared, `ir` is kept (R443; log 19). -/
def stopEngine (s : State) : State :=
  s.setSched { s.sched with runMode := .waiting, runTo := none, cancelRequested := false }

/-- Step 1 of the main loop (R440): the reset sequence, then `MODE_AFTER_RESET`. -/
def resetTurn (s : State) : Option State := do
  let s1 ← resetSequence s
  some (s1.setRunMode s1.cfg.modeAfterReset)

/-- Step 7 of the main loop: single-stepping returns to `Waiting`; a halted engine does not get there (R440). -/
def afterExecute (s : State) : State :=
  if s.sched.halted = false ∧ s.sched.runMode = .singleStep then s.setRunMode .waiting else s

/-- In `Waiting` with the opcode fetched: step 5 of the main loop (R440). -/
def atHold (s : State) : Bool := decide (s.sched.runMode = .waiting) && s.sched.ir.isSome

/-- When a command is accepted: those that start the engine at step 5, the others at any boundary (R446; log 28). -/
def Command.acceptedAt (c : Command) (s : State) : Bool :=
  match c with
  | .step | .run | .runTo _ | .reset => atHold s
  | .setRunMode _ | .cancel | .readByte _ | .writeByte _ _ | .getReg _ | .getHalted | .setReg _ _ | .setBreakpoint _
  | .clearBreakpoint | .setFence _ _ | .clearFence | .lastAccessInternal | .getAccel | .setAccel _ | .setTrace _ => true

/-- The commands that only read a register or bookkeeping: no bus transaction, and nothing of the machine changes
(R446, R448). -/
def Command.isQuery : Command → Bool
  | .getReg _ | .getHalted | .lastAccessInternal | .getAccel => true
  | .step | .run | .runTo _ | .reset | .setRunMode _ | .cancel | .readByte _ | .writeByte _ _ | .setReg _ _
  | .setBreakpoint _ | .clearBreakpoint | .setFence _ _ | .clearFence | .setAccel _ | .setTrace _ => false

/-- A register as the accessor shows it (10_state R48). -/
def regValue (s : State) : RegName → Addr
  | .a => zext16 s.cpu.a
  | .x => zext16 s.cpu.x
  | .y => zext16 s.cpu.y
  | .sp => zext16 s.cpu.sp
  | .p => zext16 s.cpu.p
  | .pc => s.cpu.pc

/-- The register setter: values are masked, setting `PC` clears `ir`, setting `P` keeps bit 5 set (10_state R48). -/
def setRegister (r : RegName) (v : Nat) (s : State) : State :=
  match r with
  | .a => s.setA (BitVec.ofNat 8 v)
  | .x => s.setX (BitVec.ofNat 8 v)
  | .y => s.setY (BitVec.ofNat 8 v)
  | .sp => s.setSp (BitVec.ofNat 8 v)
  | .p => s.setP (flagsFrom (BitVec.ofNat 8 v))
  | .pc => (s.setPc (BitVec.ofNat 16 v)).clearIr

/-- Returns a value to the host (R446). -/
def State.reply (s : State) (r : Reply) : State := { s with out := { s.out with replies := r :: s.out.replies } }

/-- The effect of each host command (R446; of `getHalted` R448). -/
def applyCommand (c : Command) (s : State) : Option State :=
  match c with
  | .step => some (s.setRunMode .singleStep)
  | .run => some (s.setRunMode .running)
  | .runTo a => some (s.setSched { s.sched with runTo := some a, runMode := .running })
  | .reset => some (s.setRunMode .resetting)
  | .setRunMode m => some (s.setRunMode m)
  | .cancel => some (s.setSched { s.sched with cancelRequested := true })
  | .readByte a => do
    let (v, s1) ← memRead a s
    some (s1.reply (.byte v))
  | .writeByte a v => some (memWrite a v s)
  | .getReg r => some (s.reply (.reg r (regValue s r)))
  | .getHalted => some (s.reply (.halted s.sched.halted))
  | .setReg r v => some (setRegister r v s)
  | .setBreakpoint a => some (s.setSched { s.sched with breakpoint := some a })
  | .clearBreakpoint => some (s.setSched { s.sched with breakpoint := none })
  | .setFence lo hi => some (s.setSched { s.sched with fence := some (lo, hi) })
  | .clearFence => some (s.setSched { s.sched with fence := none })
  | .lastAccessInternal => some (s.reply (.internal s.bus.lastInternal))
  | .getAccel => some (s.reply (.level s.bus.accel))
  | .setAccel l => some (s.setBus { s.bus with accel := l })
  | .setTrace b => some (s.setSched { s.sched with traceEnable := b })

/-- Uses the host's slot for this step up. -/
def State.dropSlot (s : State) : State := { s with host := s.host.tail }

/-- The command accepted at this step, if any (R446; log 8). -/
def nextCommand (s : State) : Option Command :=
  match s.host with
  | some c :: _ => if c.acceptedAt s then some c else none
  | _ => none

/-- A step that accepts no command uses up a slot that holds none; a command not yet accepted stays (log 8). -/
def passSlot (s : State) : State :=
  match s.host with
  | none :: _ => s.dropSlot
  | _ => s

/-- The hold of step 5 when no command is accepted: an empty slot lets the wait go on, an empty queue means that no
command will ever come (R440; log 11). -/
def holdForCommand (s : State) : Host.Outcome State Fault Refusal :=
  match s.host with
  | [] => .fault .commandHold
  | _ :: _ => .next (passSlot s)

/-- The locked state after JAM (R448, 46_illegal R372; log 10): the host's queries are answered, every other command and
an empty slot are used up without any effect, and with nothing left to come the machine stands still. -/
def locked (s : State) : Host.Outcome State Fault Refusal :=
  match s.host with
  | [] => .fault .halted
  | none :: _ => .next s.dropSlot
  | some c :: _ => if c.isQuery then complete (applyCommand c s.dropSlot) else .next s.dropSlot

/-- What a fetched opcode meets next (R440 steps 4 to 6). -/
inductive AfterFetch where
  /-- a stop condition holds -/
  | stop
  /-- the engine waits for the host with the opcode fetched -/
  | wait
  /-- the instruction is executed -/
  | execute
deriving DecidableEq, Repr

/-- Steps 4 and 5 of the main loop as a decision (R440). -/
def afterFetch (s : State) : AfterFetch :=
  if mustStop s then .stop else if s.sched.runMode = .waiting then .wait else .execute

/-- The bytes of a table word stored from `a` upward, in the shadow memory and in the partner's, so that a fetch finds
them whatever the policy of an address is. -/
def placeBytes (a : Addr) (bytes : List Byte) (b : Bus) : Bus :=
  { b with
    shadow := b.shadow.setBlock a bytes
    partner := { b.partner with mem := b.partner.mem.setBlock a bytes } }

/-- Takes away all that would keep the next step from fetching at `PC` and executing what it fetched: a halt, a wait,
a pending reset, an opcode already fetched, scripted answers, requests, host commands and stop conditions. -/
def readyToFetch (s : State) : State :=
  { s with
    bus := { s.bus with partner := { s.bus.partner with samples := [], lines := Lines.idle } }
    sched :=
      { s.sched with
        runMode := if s.sched.runMode = .singleStep then .singleStep else .running
        ir := none
        halted := false
        breakpoint := none
        runTo := none
        fence := none
        cancelRequested := false }
    polls := []
    host := [] }

end Sys2Proof.Machine
end

