-- ==== Sys2Proof/Machine/Step.lean ====
section
/-! DEFINITION. One step: one turn of the main loop of 60_exceptions R440, ended early where the loop holds or goes
back to its top (log 27). -/

namespace Sys2Proof.Machine

open Sys2Proof

/-- Steps 6 and 7: the fetched opcode is executed; in `SingleStep` the engine then waits (R440). -/
def executeOpcode (op : Byte) (s : State) : Host.Outcome State Fault Refusal :=
  match exec (decodeOpcode op) s.clearIr with
  | .next t => .next (afterExecute t)
  | .fault r => .fault r
  | .refused r => .refused r

/-- Steps 4 to 7 for the opcode `op`, which is in `ir` (R440). -/
def dispatchFetched (op : Byte) (s : State) : Host.Outcome State Fault Refusal :=
  match afterFetch s with
  | .stop => .next (stopEngine s)
  | .wait => .next s
  | .execute => executeOpcode op s

/-- Steps 3 to 7 (R440). -/
def fetchAndDispatch (s : State) : Host.Outcome State Fault Refusal :=
  match fetchOpcode s with
  | some (op, s1) => dispatchFetched op s1
  | none => .fault .readyHold

/-- Steps 2 to 7 at an instruction boundary: a poll that takes RESET goes back to the top of the loop (R440). -/
def boundary (s : State) : Host.Outcome State Fault Refusal :=
  match poll s with
  | none => .fault .readyHold
  | some s1 => if resetTaken s then .next s1 else fetchAndDispatch s1

/-- Steps 2 to 7: at a boundary from the poll on; with the opcode fetched from the stop check on (R440). -/
def turn (s : State) : Host.Outcome State Fault Refusal :=
  match s.sched.ir with
  | none => boundary (passSlot s)
  | some op => if atHold s then holdForCommand s else dispatchFetched op (passSlot s)

/-- One step of the machine (R440): a halted engine only answers the host (R448); else a host command that is accepted
here comes first (R446), then a pending reset (R461), then the turn. -/
def step (s : State) : Host.Outcome State Fault Refusal :=
  if s.sched.halted then locked s
  else
    match nextCommand s with
    | some c => complete (applyCommand c s.dropSlot)
    | none => if s.sched.runMode = .resetting then complete (resetTurn (passSlot s)) else turn s

/-- `s` with a table word stored where the next step fetches, and everything taken away that would keep that step from
running it (log 25). -/
def State.withFetchWord (s : State) (nbits w : Nat) : State :=
  let s1 := readyToFetch s
  s1.setBus (placeBytes s1.cpu.pc (tableBytes nbits w) s1.bus)

end Sys2Proof.Machine
end

