-- ==== Sys2Proof/Safety.lean ====
section
/-! DEFINITION. The terms claims are stated in: the invariant of the machine, when the bus partner answers, what a read
returns when it is a quiet memory, and what a read, a store and a read-modify-write of each operand form do. The
formulas of this file are written from the rules, not from the functions of Machine/. -/

namespace Sys2Proof.Machine

open Sys2Proof

/-- Both memories are canonical, and bit 5 of `P` is 1 (10_state R26). -/
def State.inv (s : State) : Prop :=
  s.bus.shadow.wf = true ∧ s.bus.partner.mem.wf = true ∧ s.cpu.p.getLsbD 5 = true

/-- The bus partner asserts READY in the end, whatever its script holds before: no read holds for ever (20_memory
R73). -/
def State.answered (s : State) : Prop := s.bus.partner.lines.ready = true

/-- The bus partner is a memory with READY active (20_memory R76, `IdealRamPartner`), and there is no matcher. -/
def State.quiet (s : State) : Prop :=
  s.bus.partner.lines.ready = true ∧ s.bus.partner.samples = [] ∧ s.cfg.matcherEnabled = false

/-- The policy of an address at the present level. -/
def State.policy (s : State) (a : Addr) : AccessPolicy := classify s.cfg a s.bus.accel

/-- The byte a read at `a` returns in a quiet state (20_memory R65, R71): the partner's where `DATA_IN` is returned,
the shadow byte elsewhere. -/
def State.view (s : State) (a : Addr) : Byte :=
  if returnsDataIn s.cfg a (s.policy a) then s.bus.partner.mem.get a else s.bus.shadow.get a

/-- The twelve JAM opcodes (46_illegal R372). -/
def isJam : Instr → Bool
  | .jam02 | .jam12 | .jam22 | .jam32 | .jam42 | .jam52 | .jam62 | .jam72 | .jam92 | .jamB2 | .jamD2 | .jamF2 => true
  | _ => false

/-- An access of `MemRead` (00_scope R10): a read that fetches no opcode. -/
def Access.isRead : Access → Bool
  | .read _ fetch _ _ => !fetch
  | .write _ _ _ => false

/-- An access of `MemFetch` (00_scope R10). -/
def Access.isFetch : Access → Bool
  | .read _ fetch _ _ => fetch
  | .write _ _ _ => false

/-- A bus read at an address (20_memory R75, `BusRead`). -/
def Access.isBusReadAt (a : Addr) : Access → Bool
  | .read b _ onBus _ => onBus && decide (b = a)
  | .write _ _ _ => false

/-- The entry a `MemRead` at `a` leaves in the access log at the present level (20_memory R66, R67). -/
def State.readEntry (s : State) (a : Addr) : Access := .read a false (!fastRead (s.policy a)) false

/-- The entry a `MemWrite` of `v` at `a` leaves in the access log at the present level (20_memory R68). -/
def State.writeEntry (s : State) (a : Addr) (v : Byte) : Access := .write a v (!fastWrite (s.policy a))

/-- The entries of reads at the addresses of a list in their order, the latest first. -/
def State.readEntries (s : State) (l : List Addr) : List Access := (l.map s.readEntry).reverse

/-- From `s` to `t` the machine has done nothing but reads, whose entries all meet `kind`: every register, every byte of
both memories, the scheduler, the inputs of polls and host, the outputs and the parameters are unchanged; the partner's
script is only used up; the log grows by such reads only; the level and the matcher are unchanged unless the matcher saw a bus read at `KEY_ADDR`
(20_memory R66, R72). -/
def State.readsOnly (kind : Access → Bool) (s t : State) : Prop :=
  t = { s with bus := t.bus } ∧ t.bus.shadow = s.bus.shadow ∧ t.bus.partner.mem = s.bus.partner.mem ∧
    t.bus.partner.lines = s.bus.partner.lines ∧ t.bus.partner.samples <:+ s.bus.partner.samples ∧
    ∃ l, t.bus.log = l ++ s.bus.log ∧ l.all kind = true ∧
      ((s.cfg.matcherEnabled = false ∨ l.any (Access.isBusReadAt s.cfg.keyAddr) = false) →
        t.bus.accel = s.bus.accel ∧ t.bus.matcher = s.bus.matcher)

/-- From `s` to `t` the machine has done nothing but `MemRead`s. -/
def State.onlyRead (s t : State) : Prop := s.readsOnly Access.isRead t

/-- From `u` to `t` the machine has done one `MemWrite` of `v` at `a` (20_memory R68, R70): below the ROM window the
shadow byte is `v`; the partner has it unless the write was fast; every other byte of both memories and all other
state but the bookkeeping is unchanged. -/
def State.stored (u : State) (a : Addr) (v : Byte) (t : State) : Prop :=
  t = { u with bus := t.bus } ∧
    (∀ b, t.bus.shadow.get b = if b = a ∧ a < u.cfg.romBase then v else u.bus.shadow.get b) ∧
    (∀ b, t.bus.partner.mem.get b =
      if b = a ∧ u.policy a ≠ .allFastInternal then v else u.bus.partner.mem.get b) ∧
    t.bus.partner = { u.bus.partner with mem := t.bus.partner.mem } ∧
    t.bus.accel = u.bus.accel ∧ t.bus.matcher = u.bus.matcher ∧ t.bus.snap = u.bus.snap ∧
    t.bus.lastInternal = decide (u.policy a = .allFastInternal) ∧
    t.bus.log = u.writeEntry a v :: u.bus.log

/-- The value of the flag `g` after the updates of `upd`, being `old` before; the first update that names it counts. -/
def updated (upd : List (Flag × Bool)) (g : Flag) (old : Bool) : Bool :=
  match upd with
  | [] => old
  | (f, on) :: rest => if g = f then on else updated rest g old

/-- Flag by flag, the byte `p'` is `p` but for the flags that `upd` names (10_state R25, R28). -/
def flagsAre (p p' : Byte) (upd : List (Flag × Bool)) : Prop := ∀ g : Flag, flagOf p' g = updated upd g (flagOf p g)

/-- `{hi, lo}` of the operand bytes in a quiet state (30_encoding R112). -/
def State.operand16 (s : State) : Addr := cat (s.view (s.cpu.pc + 2)) (s.view (s.cpu.pc + 1))

/-- `{hi, lo}` of the pointer at `z`, `z + 1` in page zero in a quiet state (40_addressing R148, R149). -/
def State.pointer (s : State) (z : Byte) : Addr := cat (s.view (zext16 (z + 1))) (s.view (zext16 z))

/-- The effective address of each mode in a quiet state (30_encoding R113, 40_addressing R144 to R150). -/
def State.quietAddr (s : State) : AddrMode → Addr
  | .imm => s.cpu.pc + 1
  | .zp => zext16 (s.view (s.cpu.pc + 1))
  | .zpx => zext16 (s.view (s.cpu.pc + 1) + s.cpu.x)
  | .zpy => zext16 (s.view (s.cpu.pc + 1) + s.cpu.y)
  | .abs => s.operand16
  | .abx => s.operand16 + zext16 s.cpu.x
  | .aby => s.operand16 + zext16 s.cpu.y
  | .izx => s.pointer (s.view (s.cpu.pc + 1) + s.cpu.x)
  | .izy => s.pointer (s.view (s.cpu.pc + 1)) + zext16 s.cpu.y

/-- The dummy read of an indexed mode: for a read only when the high byte changes (40_addressing R142, R149, R150). -/
def carryRead (base : Addr) (index : Byte) : AccessKind → List Addr
  | .read => if hi8 (base + zext16 index) = hi8 base then [] else [cat (hi8 base) (lo8 base + index)]
  | .write | .rmw => [cat (hi8 base) (lo8 base + index)]

/-- The reads each mode makes before the operand itself, in order, in a quiet state (40_addressing R144 to R150). -/
def State.quietReads (s : State) (k : AccessKind) : AddrMode → List Addr
  | .imm => []
  | .zp => [s.cpu.pc + 1]
  | .zpx | .zpy => [s.cpu.pc + 1, zext16 (s.view (s.cpu.pc + 1))]
  | .abs => [s.cpu.pc + 1, s.cpu.pc + 2]
  | .abx => [s.cpu.pc + 1, s.cpu.pc + 2] ++ carryRead s.operand16 s.cpu.x k
  | .aby => [s.cpu.pc + 1, s.cpu.pc + 2] ++ carryRead s.operand16 s.cpu.y k
  | .izx =>
    let z := s.view (s.cpu.pc + 1)
    [s.cpu.pc + 1, zext16 z, zext16 (z + s.cpu.x), zext16 (z + s.cpu.x + 1)]
  | .izy =>
    let z := s.view (s.cpu.pc + 1)
    [s.cpu.pc + 1, zext16 z, zext16 (z + 1)] ++ carryRead (s.pointer z) s.cpu.y k

/-- `ReadOp(mode)` answers the byte `v` in the state `u` (40_addressing R141): nothing but reads happens, and in a
quiet state `v` is the byte at the mode's address and the reads are the mode's. -/
def State.operandRead (s : State) (m : AddrMode) (v : Byte) (u : State) : Prop :=
  readOp m s = some (v, u) ∧ s.onlyRead u ∧
    (s.quiet → v = s.view (s.quietAddr m) ∧
      u.bus.log = s.readEntries (s.quietReads .read m ++ [s.quietAddr m]) ++ s.bus.log)

/-- `WriteOp(mode, v)` ends in `t` (40_addressing R141): reads up to `u` that yield the address `ea`, which is the
mode's in a quiet state, then one store of `v` there. -/
def State.operandWritten (s : State) (m : AddrMode) (ea : Addr) (v : Byte) (t : State) : Prop :=
  ∃ u, effAddr m .write s = some (ea, u) ∧ writeOp m v s = some t ∧ s.onlyRead u ∧ u.stored ea v t ∧
    (s.quiet → ea = s.quietAddr m ∧
      t.bus.log = s.writeEntry ea v :: s.readEntries (s.quietReads .write m) ++ s.bus.log)

/-- `RmwOp(mode, f)` up to its memory effects (40_addressing R141): reads that yield `ea` and the byte `old`, the store
of `old` there and then the store of `new`; no register and no flag changes in `t`. -/
def State.operandModified (s : State) (m : AddrMode) (ea : Addr) (old new : Byte) (t : State) : Prop :=
  ∃ u1 u2 u3, effAddr m .rmw s = some (ea, u1) ∧ memRead ea u1 = some (old, u2) ∧ s.onlyRead u2 ∧
    u2.stored ea old u3 ∧ u3.stored ea new t ∧
    (s.quiet → ea = s.quietAddr m ∧ old = s.view ea ∧
      t.bus.log = [s.writeEntry ea new, s.writeEntry ea old] ++
        s.readEntries (s.quietReads .rmw m ++ [ea]) ++ s.bus.log)

/-- Reads at fixed addresses: nothing but reads happens from `s` to `u`, and in a quiet state they are those of `l`. -/
def State.didRead (s : State) (l : List Addr) (u : State) : Prop :=
  s.onlyRead u ∧ (s.quiet → u.bus.log = s.readEntries l ++ s.bus.log)

/-- `MemRead`s one after the other, each with its address and the byte it returns. -/
def State.readChain (s : State) (l : List (Addr × Byte)) (u : State) : Prop :=
  match l with
  | [] => u = s
  | (a, v) :: rest => ∃ t, memRead a s = some (v, t) ∧ t.readChain rest u

/-- The machine reads the bytes of `l` at the addresses of `l`, in order, and does nothing else from `s` to `u`; in a
quiet state each byte is the one at its address, and the log grows by exactly these reads. -/
def State.reads (s : State) (l : List (Addr × Byte)) (u : State) : Prop :=
  s.readChain l u ∧ s.onlyRead u ∧
    (s.quiet → (∀ r ∈ l, r.2 = s.view r.1) ∧ u.bus.log = s.readEntries (l.map Prod.fst) ++ s.bus.log)

/-- The machine stores the bytes of `l` at the addresses of `l`, in order, and does nothing else from `u` to `t`. -/
def State.stores (u : State) (l : List (Addr × Byte)) (t : State) : Prop :=
  match l with
  | [] => t = u
  | (a, v) :: rest => ∃ w, u.stored a v w ∧ w.stores rest t

/-- A stop condition holds at `PC` (60_exceptions R443). -/
def State.stopDue (s : State) : Prop :=
  s.sched.breakpoint = some s.cpu.pc ∨ s.sched.runTo = some s.cpu.pc ∨
    (∃ lo hi, s.sched.fence = some (lo, hi) ∧ ¬ (lo ≤ s.cpu.pc ∧ s.cpu.pc ≤ hi)) ∨ s.sched.cancelRequested = true

/-- The stack address of a stack pointer (10_state R22). -/
def State.stack (s : State) (sp : Byte) : Addr := s.cfg.stackBase ||| zext16 sp

/-- Below the ROM window the shadow byte is the partner's wherever `DATA_IN` would be returned (70_reset_and_hazards
R472: `shadow` agrees with the partner). -/
def State.coherent (s : State) : Prop :=
  ∀ a, a < s.cfg.romBase → returnsDataIn s.cfg a (s.policy a) = true → s.bus.partner.mem.get a = s.bus.shadow.get a

/-- Two states of one machine that may differ in the acceleration level and in what the bus saw, and agree in all that
an architectural result depends on (20_memory R76, 70_reset_and_hazards R472). -/
def State.sameRun (s t : State) : Prop :=
  t = { s with bus := t.bus } ∧ s.host = [] ∧ s.cfg.windowsDisjoint = true ∧ s.quiet ∧ t.quiet ∧ s.coherent ∧
    t.coherent ∧ t.bus.partner.lines = s.bus.partner.lines ∧
    (∀ a, a < s.cfg.romBase → t.bus.shadow.get a = s.bus.shadow.get a) ∧
    (∀ a, s.cfg.romBase ≤ a → t.bus.partner.mem.get a = s.bus.partner.mem.get a)

/-- An instruction with its opcode byte as the spec's rules list it, and its operand form. -/
structure Form where
  instr : Instr
  byte : Byte
  mode : AddrMode
deriving DecidableEq, Repr

/-- Instructions that read their operand: at every form, `exec` answers the state after `ReadOp` with the registers
`regs v`, the flags `flags v` and `PC` past the instruction, `v` being the operand byte. -/
def State.readForms (s : State) (forms : List Form) (regs : Byte → Cpu) (flags : Byte → List (Flag × Bool)) : Prop :=
  ∀ f ∈ forms, decodeOpcode f.byte = f.instr ∧
    ∃ v u p, s.operandRead f.mode v u ∧ flagsAre s.cpu.p p (flags v) ∧
      exec f.instr s = .next { u with cpu := { regs v with p := p, pc := s.cpu.pc + f.mode.length } }

/-- Instructions that store `v`: at every form, `exec` answers the state after `WriteOp`, with no register and no flag
changed but `PC`, which is past the instruction. -/
def State.writeForms (s : State) (forms : List Form) (v : Byte) : Prop :=
  ∀ f ∈ forms, decodeOpcode f.byte = f.instr ∧
    ∃ ea t, s.operandWritten f.mode ea v t ∧
      exec f.instr s = .next { t with cpu := { s.cpu with pc := s.cpu.pc + f.mode.length } }

/-- Instructions that modify a memory byte: at every form, `exec` answers the state after `RmwOp`, which reads `old` and
stores `old` and then `new old`, with the registers `regs old`, the flags `flags old` and `PC` past the instruction. -/
def State.modifyForms (s : State) (forms : List Form) (new : Byte → Byte) (regs : Byte → Cpu)
    (flags : Byte → List (Flag × Bool)) : Prop :=
  ∀ f ∈ forms, decodeOpcode f.byte = f.instr ∧
    ∃ ea old t p, s.operandModified f.mode ea old (new old) t ∧ flagsAre s.cpu.p p (flags old) ∧
      exec f.instr s = .next { t with cpu := { regs old with p := p, pc := s.cpu.pc + f.mode.length } }

/-- An instruction of one byte without a memory operand: `exec` answers the state after the dummy read of the next byte,
with the registers `regs`, the flags `flags` and `PC` past the instruction. -/
def State.implied (s : State) (i : Instr) (byte : Byte) (regs : Cpu) (flags : List (Flag × Bool)) : Prop :=
  decodeOpcode byte = i ∧
    ∃ d u p, s.reads [(s.cpu.pc + 1, d)] u ∧ flagsAre s.cpu.p p flags ∧
      exec i s = .next { u with cpu := { regs with p := p, pc := s.cpu.pc + 1 } }

/-- `N` and `Z` of a result byte (00_scope R11). -/
def flagsNZ (r : Byte) : List (Flag × Bool) := [(.n, r.getLsbD 7), (.z, decide (r = 0))]

/-- The forms of LDA (R180). -/
def ldaForms : List Form :=
  [⟨.ldaIzx, 0xA1, .izx⟩, ⟨.ldaZp, 0xA5, .zp⟩, ⟨.ldaImm, 0xA9, .imm⟩, ⟨.ldaAbs, 0xAD, .abs⟩, ⟨.ldaIzy, 0xB1, .izy⟩,
   ⟨.ldaZpx, 0xB5, .zpx⟩, ⟨.ldaAby, 0xB9, .aby⟩, ⟨.ldaAbx, 0xBD, .abx⟩]

/-- The forms of LDX (R181). -/
def ldxForms : List Form :=
  [⟨.ldxImm, 0xA2, .imm⟩, ⟨.ldxZp, 0xA6, .zp⟩, ⟨.ldxAbs, 0xAE, .abs⟩, ⟨.ldxZpy, 0xB6, .zpy⟩, ⟨.ldxAby, 0xBE, .aby⟩]

/-- The forms of LDY (R182). -/
def ldyForms : List Form :=
  [⟨.ldyImm, 0xA0, .imm⟩, ⟨.ldyZp, 0xA4, .zp⟩, ⟨.ldyAbs, 0xAC, .abs⟩, ⟨.ldyZpx, 0xB4, .zpx⟩, ⟨.ldyAbx, 0xBC, .abx⟩]

/-- The forms of STA (R183). -/
def staForms : List Form :=
  [⟨.staIzx, 0x81, .izx⟩, ⟨.staZp, 0x85, .zp⟩, ⟨.staAbs, 0x8D, .abs⟩, ⟨.staIzy, 0x91, .izy⟩, ⟨.staZpx, 0x95, .zpx⟩,
   ⟨.staAby, 0x99, .aby⟩, ⟨.staAbx, 0x9D, .abx⟩]

/-- The forms of STX (R184). -/
def stxForms : List Form :=
  [⟨.stxZp, 0x86, .zp⟩, ⟨.stxAbs, 0x8E, .abs⟩, ⟨.stxZpy, 0x96, .zpy⟩]

/-- The forms of STY (R185). -/
def styForms : List Form :=
  [⟨.styZp, 0x84, .zp⟩, ⟨.styAbs, 0x8C, .abs⟩, ⟨.styZpx, 0x94, .zpx⟩]

/-- The forms of ORA (R220). -/
def oraForms : List Form :=
  [⟨.oraIzx, 0x01, .izx⟩, ⟨.oraZp, 0x05, .zp⟩, ⟨.oraImm, 0x09, .imm⟩, ⟨.oraAbs, 0x0D, .abs⟩, ⟨.oraIzy, 0x11, .izy⟩,
   ⟨.oraZpx, 0x15, .zpx⟩, ⟨.oraAby, 0x19, .aby⟩, ⟨.oraAbx, 0x1D, .abx⟩]

/-- The forms of AND (R221). -/
def andForms : List Form :=
  [⟨.andIzx, 0x21, .izx⟩, ⟨.andZp, 0x25, .zp⟩, ⟨.andImm, 0x29, .imm⟩, ⟨.andAbs, 0x2D, .abs⟩, ⟨.andIzy, 0x31, .izy⟩,
   ⟨.andZpx, 0x35, .zpx⟩, ⟨.andAby, 0x39, .aby⟩, ⟨.andAbx, 0x3D, .abx⟩]

/-- The forms of EOR (R222). -/
def eorForms : List Form :=
  [⟨.eorIzx, 0x41, .izx⟩, ⟨.eorZp, 0x45, .zp⟩, ⟨.eorImm, 0x49, .imm⟩, ⟨.eorAbs, 0x4D, .abs⟩, ⟨.eorIzy, 0x51, .izy⟩,
   ⟨.eorZpx, 0x55, .zpx⟩, ⟨.eorAby, 0x59, .aby⟩, ⟨.eorAbx, 0x5D, .abx⟩]

/-- The forms of ADC (R223). -/
def adcForms : List Form :=
  [⟨.adcIzx, 0x61, .izx⟩, ⟨.adcZp, 0x65, .zp⟩, ⟨.adcImm, 0x69, .imm⟩, ⟨.adcAbs, 0x6D, .abs⟩, ⟨.adcIzy, 0x71, .izy⟩,
   ⟨.adcZpx, 0x75, .zpx⟩, ⟨.adcAby, 0x79, .aby⟩, ⟨.adcAbx, 0x7D, .abx⟩]

/-- The forms of SBC (R224, R354). -/
def sbcForms : List Form :=
  [⟨.sbcIzx, 0xE1, .izx⟩, ⟨.sbcZp, 0xE5, .zp⟩, ⟨.sbcImm, 0xE9, .imm⟩, ⟨.sbcImmEB, 0xEB, .imm⟩,
   ⟨.sbcAbs, 0xED, .abs⟩, ⟨.sbcIzy, 0xF1, .izy⟩, ⟨.sbcZpx, 0xF5, .zpx⟩, ⟨.sbcAby, 0xF9, .aby⟩,
   ⟨.sbcAbx, 0xFD, .abx⟩]

/-- The forms of CMP (R225). -/
def cmpForms : List Form :=
  [⟨.cmpIzx, 0xC1, .izx⟩, ⟨.cmpZp, 0xC5, .zp⟩, ⟨.cmpImm, 0xC9, .imm⟩, ⟨.cmpAbs, 0xCD, .abs⟩, ⟨.cmpIzy, 0xD1, .izy⟩,
   ⟨.cmpZpx, 0xD5, .zpx⟩, ⟨.cmpAby, 0xD9, .aby⟩, ⟨.cmpAbx, 0xDD, .abx⟩]

/-- The forms of CPX (R226). -/
def cpxForms : List Form :=
  [⟨.cpxImm, 0xE0, .imm⟩, ⟨.cpxZp, 0xE4, .zp⟩, ⟨.cpxAbs, 0xEC, .abs⟩]

/-- The forms of CPY (R227). -/
def cpyForms : List Form :=
  [⟨.cpyImm, 0xC0, .imm⟩, ⟨.cpyZp, 0xC4, .zp⟩, ⟨.cpyAbs, 0xCC, .abs⟩]

/-- The forms of BIT (R228). -/
def bitForms : List Form :=
  [⟨.bitZp, 0x24, .zp⟩, ⟨.bitAbs, 0x2C, .abs⟩]

/-- The forms of ASL (R250). -/
def aslForms : List Form :=
  [⟨.aslZp, 0x06, .zp⟩, ⟨.aslAbs, 0x0E, .abs⟩, ⟨.aslZpx, 0x16, .zpx⟩, ⟨.aslAbx, 0x1E, .abx⟩]

/-- The forms of LSR (R251). -/
def lsrForms : List Form :=
  [⟨.lsrZp, 0x46, .zp⟩, ⟨.lsrAbs, 0x4E, .abs⟩, ⟨.lsrZpx, 0x56, .zpx⟩, ⟨.lsrAbx, 0x5E, .abx⟩]

/-- The forms of ROL (R252). -/
def rolForms : List Form :=
  [⟨.rolZp, 0x26, .zp⟩, ⟨.rolAbs, 0x2E, .abs⟩, ⟨.rolZpx, 0x36, .zpx⟩, ⟨.rolAbx, 0x3E, .abx⟩]

/-- The forms of ROR (R253). -/
def rorForms : List Form :=
  [⟨.rorZp, 0x66, .zp⟩, ⟨.rorAbs, 0x6E, .abs⟩, ⟨.rorZpx, 0x76, .zpx⟩, ⟨.rorAbx, 0x7E, .abx⟩]

/-- The forms of INC (R254). -/
def incForms : List Form :=
  [⟨.incZp, 0xE6, .zp⟩, ⟨.incAbs, 0xEE, .abs⟩, ⟨.incZpx, 0xF6, .zpx⟩, ⟨.incAbx, 0xFE, .abx⟩]

/-- The forms of DEC (R255). -/
def decForms : List Form :=
  [⟨.decZp, 0xC6, .zp⟩, ⟨.decAbs, 0xCE, .abs⟩, ⟨.decZpx, 0xD6, .zpx⟩, ⟨.decAbx, 0xDE, .abx⟩]

/-- The forms of SLO (R341). -/
def sloForms : List Form :=
  [⟨.sloIzx, 0x03, .izx⟩, ⟨.sloZp, 0x07, .zp⟩, ⟨.sloAbs, 0x0F, .abs⟩, ⟨.sloIzy, 0x13, .izy⟩, ⟨.sloZpx, 0x17, .zpx⟩,
   ⟨.sloAby, 0x1B, .aby⟩, ⟨.sloAbx, 0x1F, .abx⟩]

/-- The forms of RLA (R342). -/
def rlaForms : List Form :=
  [⟨.rlaIzx, 0x23, .izx⟩, ⟨.rlaZp, 0x27, .zp⟩, ⟨.rlaAbs, 0x2F, .abs⟩, ⟨.rlaIzy, 0x33, .izy⟩, ⟨.rlaZpx, 0x37, .zpx⟩,
   ⟨.rlaAby, 0x3B, .aby⟩, ⟨.rlaAbx, 0x3F, .abx⟩]

/-- The forms of SRE (R343). -/
def sreForms : List Form :=
  [⟨.sreIzx, 0x43, .izx⟩, ⟨.sreZp, 0x47, .zp⟩, ⟨.sreAbs, 0x4F, .abs⟩, ⟨.sreIzy, 0x53, .izy⟩, ⟨.sreZpx, 0x57, .zpx⟩,
   ⟨.sreAby, 0x5B, .aby⟩, ⟨.sreAbx, 0x5F, .abx⟩]

/-- The forms of RRA (R344). -/
def rraForms : List Form :=
  [⟨.rraIzx, 0x63, .izx⟩, ⟨.rraZp, 0x67, .zp⟩, ⟨.rraAbs, 0x6F, .abs⟩, ⟨.rraIzy, 0x73, .izy⟩, ⟨.rraZpx, 0x77, .zpx⟩,
   ⟨.rraAby, 0x7B, .aby⟩, ⟨.rraAbx, 0x7F, .abx⟩]

/-- The forms of DCP (R345). -/
def dcpForms : List Form :=
  [⟨.dcpIzx, 0xC3, .izx⟩, ⟨.dcpZp, 0xC7, .zp⟩, ⟨.dcpAbs, 0xCF, .abs⟩, ⟨.dcpIzy, 0xD3, .izy⟩, ⟨.dcpZpx, 0xD7, .zpx⟩,
   ⟨.dcpAby, 0xDB, .aby⟩, ⟨.dcpAbx, 0xDF, .abx⟩]

/-- The forms of ISC (R346). -/
def iscForms : List Form :=
  [⟨.iscIzx, 0xE3, .izx⟩, ⟨.iscZp, 0xE7, .zp⟩, ⟨.iscAbs, 0xEF, .abs⟩, ⟨.iscIzy, 0xF3, .izy⟩, ⟨.iscZpx, 0xF7, .zpx⟩,
   ⟨.iscAby, 0xFB, .aby⟩, ⟨.iscAbx, 0xFF, .abx⟩]

/-- The forms of SAX (R347). -/
def saxForms : List Form :=
  [⟨.saxIzx, 0x83, .izx⟩, ⟨.saxZp, 0x87, .zp⟩, ⟨.saxAbs, 0x8F, .abs⟩, ⟨.saxZpy, 0x97, .zpy⟩]

/-- The forms of LAX (R348). -/
def laxForms : List Form :=
  [⟨.laxIzx, 0xA3, .izx⟩, ⟨.laxZp, 0xA7, .zp⟩, ⟨.laxAbs, 0xAF, .abs⟩, ⟨.laxIzy, 0xB3, .izy⟩, ⟨.laxZpy, 0xB7, .zpy⟩,
   ⟨.laxAby, 0xBF, .aby⟩]

/-- The forms of ANC (R349). -/
def ancForms : List Form :=
  [⟨.anc0B, 0x0B, .imm⟩, ⟨.anc2B, 0x2B, .imm⟩]

/-- The forms of ALR (R350). -/
def alrForms : List Form :=
  [⟨.alrImm, 0x4B, .imm⟩]

/-- The forms of ARR (R351). -/
def arrForms : List Form :=
  [⟨.arrImm, 0x6B, .imm⟩]

/-- The forms of SBX (R352). -/
def sbxForms : List Form :=
  [⟨.sbxImm, 0xCB, .imm⟩]

/-- The forms of LAS (R353). -/
def lasForms : List Form :=
  [⟨.lasAby, 0xBB, .aby⟩]

/-- The forms of the NOPs that read an operand (R356, R357, R358, R359, R360). -/
def nopForms : List Form :=
  [⟨.nop04, 0x04, .zp⟩, ⟨.nop0C, 0x0C, .abs⟩, ⟨.nop14, 0x14, .zpx⟩, ⟨.nop1C, 0x1C, .abx⟩, ⟨.nop34, 0x34, .zpx⟩,
   ⟨.nop3C, 0x3C, .abx⟩, ⟨.nop44, 0x44, .zp⟩, ⟨.nop54, 0x54, .zpx⟩, ⟨.nop5C, 0x5C, .abx⟩, ⟨.nop64, 0x64, .zp⟩,
   ⟨.nop74, 0x74, .zpx⟩, ⟨.nop7C, 0x7C, .abx⟩, ⟨.nop80, 0x80, .imm⟩, ⟨.nop82, 0x82, .imm⟩, ⟨.nop89, 0x89, .imm⟩,
   ⟨.nopC2, 0xC2, .imm⟩, ⟨.nopD4, 0xD4, .zpx⟩, ⟨.nopDC, 0xDC, .abx⟩, ⟨.nopE2, 0xE2, .imm⟩, ⟨.nopF4, 0xF4, .zpx⟩,
   ⟨.nopFC, 0xFC, .abx⟩]

end Sys2Proof.Machine
end

