-- ==== Sys2Proof/Certificates/Slice0/Obligations.lean ====
section
/-! DEFINITION. The statements about the model, for the provers. Each docstring says which rules of spec/ it formalises;
a statement that rests on a decision of the spec or of the model says so. -/

open Sys2Proof Sys2Proof.Machine

/-- O1. Decoding the bytes of any well-formed instruction gives it back. (30_encoding R110, 30_encoding R111,
30_encoding R112) -/
def Obligations.DecodeInvertsEncode : Prop :=
  ∀ (c : Code) (rest : List Byte), c.wf = true → decode (encode c ++ rest) = .ok (c, rest)

/-- O2. Whatever decodes is well-formed and encodes to the bytes it was read from. (30_encoding R110, 30_encoding
R111, 30_encoding R112) -/
def Obligations.EncodeInvertsDecode : Prop :=
  ∀ (bytes : List Byte) (c : Code) (rest : List Byte), decode bytes = .ok (c, rest) →
    c.wf = true ∧ encode c ++ rest = bytes

/-- O3. Each of the 256 opcode bytes selects exactly one instruction, in every state. (R110) -/
def Obligations.EveryByteIsOneInstruction : Prop :=
  (∀ b : Byte, (decodeOpcode b).opcode = b) ∧ (∀ i : Instr, decodeOpcode i.opcode = i) ∧
    ∀ (b x y : Byte) (rest : List Byte), ∃ c left, decode (b :: x :: y :: rest) = .ok (c, left) ∧
      c.instr = decodeOpcode b ∧ c.operands = [x, y].take ((decodeOpcode b).length - 1)

/-- O4. Words written out from the opcode matrix decode to the instructions they stand for. (30_encoding R112,
30_encoding R113, 30_encoding R115, 30_encoding R119) -/
def Obligations.WrittenOutWordsDecode : Prop :=
  decode [0xA9#8, 0x05#8] = .ok (⟨.ldaImm, [0x05#8]⟩, []) ∧
    decode [0x8D#8, 0x00#8, 0x20#8] = .ok (⟨.staAbs, [0x00#8, 0x20#8]⟩, []) ∧
    decode [0xAA#8] = .ok (⟨.tax, []⟩, []) ∧
    decode [0x71#8, 0x10#8] = .ok (⟨.adcIzy, [0x10#8]⟩, []) ∧
    decode [0xDD#8, 0x34#8, 0x12#8] = .ok (⟨.cmpAbx, [0x34#8, 0x12#8]⟩, []) ∧
    decode [0x6A#8] = .ok (⟨.rorAcc, []⟩, []) ∧
    decode [0xF6#8, 0x10#8] = .ok (⟨.incZpx, [0x10#8]⟩, []) ∧
    decode [0xD0#8, 0xFB#8] = .ok (⟨.bne, [0xFB#8]⟩, []) ∧
    decode [0x6C#8, 0xFF#8, 0x30#8] = .ok (⟨.jmpInd, [0xFF#8, 0x30#8]⟩, []) ∧
    decode [0x00#8, 0xEA#8] = .ok (⟨.brk, []⟩, [0xEA#8]) ∧
    decode [0xD3#8, 0x10#8] = .ok (⟨.dcpIzy, [0x10#8]⟩, []) ∧
    decode [0x9B#8, 0x00#8, 0x20#8] = .ok (⟨.tasAby, [0x00#8, 0x20#8]⟩, []) ∧
    decode [0x92#8] = .ok (⟨.jam92, []⟩, [])

/-- O5. The state after reset meets the invariant. (10_state R26, 10_state R46) The canonical form is the model's (log
5). -/
def Obligations.ResetMeetsInvariant : Prop :=
  State.reset.inv

/-- O6. After reset the state holds the values the table of reset values gives. (10_state R46, 70_reset_and_hazards
R462, 70_reset_and_hazards R466) Which values RESET_FLAGS and ACCEL_INIT have is the model's choice (log 12, 14), and
so is the vector word (log 18); that the snapshot and last_access_internal are those of the last vector read is
DEDUCED (log 17). -/
def Obligations.ResetLeavesTheStatedValues : Prop :=
  State.reset.cpu.pc =
      cat (State.reset.view (State.reset.cfg.vecReset + 1)) (State.reset.view State.reset.cfg.vecReset) ∧
    State.reset.cpu.p = State.reset.cfg.resetFlags ∧ State.reset.flag .i = true ∧ State.reset.flag .u = true ∧
    State.reset.bus.accel = State.reset.cfg.accelInit ∧
    State.reset.sched =
      { runMode := State.reset.cfg.modeAfterReset, ir := none, halted := false, nmiPrev := false, breakpoint := none,
        runTo := none, fence := none, cancelRequested := State.reset.sched.cancelRequested, traceEnable := false,
        traceSeq := 0 } ∧
    State.reset.bus.matcher = 0 ∧ State.reset.bus.snap.ready = true ∧
    State.reset.bus.snap.dataIn = State.reset.view (State.reset.cfg.vecReset + 1) ∧
    State.reset.bus.lastInternal = false

/-- O7. Every step keeps bit 5 of P and the canonical form of both memories. (10_state R26, 20_memory R68) The
canonical form is the model's (log 5); bit 5 is the spec's invariant. -/
def Obligations.StepKeepsInvariant : Prop :=
  ∀ s t : State, s.inv → step s = .next t → t.inv

/-- O8. No step changes a byte of the shadow memory in the ROM window, nor an implementation parameter. (10_state R38,
20_memory R70, 00_scope R7) From every state, a step that answers a next state leaves every shadow byte at or above
ROM_BASE as it was: no instruction, no interrupt, no reset and no host command writes there; and the parameters of the
machine are the same in the next state (that they stand in the state is the model's choice, log 12). -/
def Obligations.StepNeverWritesShadowRom : Prop :=
  ∀ s t : State, step s = .next t →
    t.cfg = s.cfg ∧ ∀ a : Addr, s.cfg.romBase ≤ a → t.bus.shadow.get a = s.bus.shadow.get a

/-- O9. The run mode changes only by the transitions the table lists. (60_exceptions R441, 60_exceptions R443) The
arrangement of the loop is the spec's decision D28. That setRunMode is taken in Resetting before the pending sequence,
which it calls off unless it sets Resetting again, is the model's reading, DEDUCED (log 28). -/
def Obligations.RunModeChangesOnlyAsListed : Prop :=
  (∀ s t : State, step s = .next t → t.sched.runMode ≠ s.sched.runMode →
    (s.sched.runMode = .resetting ∧ t.sched.runMode = s.cfg.modeAfterReset) ∨
    (s.sched.runMode = .waiting ∧ nextCommand s = some .step ∧ t.sched.runMode = .singleStep) ∨
    (s.sched.runMode = .waiting ∧ (nextCommand s = some .run ∨ ∃ a, nextCommand s = some (.runTo a)) ∧
      t.sched.runMode = .running) ∨
    (s.sched.runMode = .waiting ∧ nextCommand s = some .reset ∧ t.sched.runMode = .resetting) ∨
    (s.sched.runMode = .running ∧ t.sched.runMode = .waiting ∧ t.sched.ir.isSome = true ∧
      (s.sched.breakpoint = some t.cpu.pc ∨ s.sched.runTo = some t.cpu.pc ∨
        (∃ lo hi, s.sched.fence = some (lo, hi) ∧ ¬ (lo ≤ t.cpu.pc ∧ t.cpu.pc ≤ hi)) ∨
        s.sched.cancelRequested = true)) ∨
    (s.sched.runMode = .running ∧ t.sched.runMode = .resetting ∧ (nextLevels s).resetL = true) ∨
    (s.sched.runMode = .singleStep ∧ t.sched.runMode = .waiting) ∨
    nextCommand s = some (.setRunMode t.sched.runMode)) ∧
    ∀ (s : State) (m : RunMode) (rest : List (Option Command)), s.sched.halted = false →
      s.host = some (.setRunMode m) :: rest →
      step s = .next { s with host := rest, sched := { s.sched with runMode := m } }

/-- O10. The twelve JAM opcodes, and nothing else, halt the engine, for good. (46_illegal R372, 10_state R43) That
reset does not help is the spec's decision D24; that the standing machine is the named stop halted, and that it uses
the host's other commands up, is the model's (log 10). -/
def Obligations.OnlyJamHalts : Prop :=
  (∀ (s : State) (b : Byte),
      b ∈ [0x02#8, 0x12#8, 0x22#8, 0x32#8, 0x42#8, 0x52#8, 0x62#8, 0x72#8, 0x92#8, 0xB2#8, 0xD2#8, 0xF2#8] →
      isJam (decodeOpcode b) = true ∧
      exec (decodeOpcode b) s = .next { s with sched := { s.sched with halted := true } }) ∧
    (∀ s t : State, s.sched.halted = true → step s = .next t →
      t = { s with host := s.host.tail, out := { s.out with replies := t.out.replies } }) ∧
    (∀ s : State, s.sched.halted = true → s.host = [] → step s = .fault .halted) ∧
    ∀ s t : State, s.sched.halted = false → step s = .next t → t.sched.halted = true →
      ∃ op u, isJam (decodeOpcode op) = true ∧ u.sched.halted = false ∧ exec (decodeOpcode op) u = .next t ∧
        ((s.sched.ir = some op ∧ u = (passSlot s).clearIr) ∨
          (s.sched.ir = none ∧
            ∃ p x, poll (passSlot s) = some p ∧ fetchOpcode p = some (op, x) ∧ u = x.clearIr))

/-- O11. The acceleration level changes only by the host call or by a bus read at KEY_ADDR. (10_state R35, 20_memory
R72) -/
def Obligations.AccelerationLevelIsWrittenByMatcherOrHost : Prop :=
  ∀ s t : State, step s = .next t → t.bus.accel ≠ s.bus.accel →
    nextCommand s = some (.setAccel t.bus.accel) ∨
    (s.cfg.matcherEnabled = true ∧
      ∃ new, t.bus.log = new ++ s.bus.log ∧ new.any (Access.isBusReadAt s.cfg.keyAddr) = true)

/-- O12. Under a memory partner in agreement, two acceleration levels give the same architectural run.
(70_reset_and_hazards R472, 20_memory R76) -/
def Obligations.ArchitectureIsIndependentOfAcceleration : Prop :=
  ∀ s s' : State, s.sameRun s' →
    (∀ t, step s = .next t → ∃ t', step s' = .next t' ∧ t.sameRun t') ∧
    (∀ r, step s = .fault r → step s' = .fault r)

/-- O13. Every instruction answers a next state when the partner asserts READY in the end. (60_exceptions R419,
30_encoding R117, 20_memory R73) -/
def Obligations.EveryInstructionCompletes : Prop :=
  ∀ (i : Instr) (s : State), s.answered → ∃ t, exec i s = .next t ∧
    t.bus.partner.lines = s.bus.partner.lines ∧ t.cfg = s.cfg ∧
    t.sched = { s.sched with halted := s.sched.halted || isJam i } ∧
    t.polls = s.polls ∧ t.host = s.host ∧ t.out = s.out

/-- O14. The policy of an address is that of its window, and the acceleration level decides only in the dynamic
windows. (20_memory R63) These default bounds are the spec's decision D9, and that the model takes them is a DESIGN
CHOICE (log 26). -/
def Obligations.ClassifierFollowsTheWindows : Prop :=
  (∀ (c : Config) (a : Addr) (l : AccelLevel), c.windowsDisjoint = true →
      (c.romBase ≤ a → classify c a l = .allExternal) ∧
      (c.devLo ≤ a → a ≤ c.devHi → classify c a l = .readInternalWriteExternal) ∧
      ((∃ w ∈ c.dynWindows, w.lo ≤ a ∧ a ≤ w.hi) → classify c a l = l) ∧
      (a < c.romBase → ¬ (c.devLo ≤ a ∧ a ≤ c.devHi) → (∀ w ∈ c.dynWindows, ¬ (w.lo ≤ a ∧ a ≤ w.hi)) →
        classify c a l = .allExternal)) ∧
    Config.default.windowsDisjoint = true ∧
    ∀ (a : Addr) (l : AccelLevel), classify Config.default a l =
      if 0xD000#16 ≤ a then .allExternal else if 0xC000#16 ≤ a then .readInternalWriteExternal else l

/-- O15. A read returns the shadow byte or the sampled byte as its policy says, and only a bus read touches the
inputs. (20_memory R65, 20_memory R66, 20_memory R67, 20_memory R71, 20_memory R74, 20_memory R77) An opcode fetch
does the same; its entry is marked as a fetch, on the bus SYNC is asserted in SingleStep, elsewhere as the parameter
sync_in_running says where it says it, and one free value is drawn, which is the model's (log 16). Where
last_access_internal is written is the spec's decision D30; DEV_READ_SOURCE its decision D11. -/
def Obligations.ReadsFollowThePolicy : Prop :=
  (∀ (s t : State) (a : Addr) (v : Byte), memRead a s = some (v, t) →
    ((s.policy a = .readFastInternalWriteExternal ∨ s.policy a = .allFastInternal) →
      v = s.bus.shadow.get a ∧
      t = { s with bus := { s.bus with lastInternal := true, log := .read a false false false :: s.bus.log } }) ∧
    ((s.policy a = .allExternal ∨ s.policy a = .readInternalWriteExternal) →
      t = { s with bus := t.bus } ∧ t.bus.snap.ready = true ∧ t.bus.lastInternal = false ∧
      t.bus.log = .read a false true false :: s.bus.log ∧
      v = (if s.policy a = .allExternal ∨ (region s.cfg a = .device ∧ s.cfg.devReadSource = .dataIn)
        then t.bus.snap.dataIn else s.bus.shadow.get a))) ∧
    ∀ (s t : State) (a : Addr) (v : Byte), memFetch a s = some (v, t) →
    ((s.policy a = .readFastInternalWriteExternal ∨ s.policy a = .allFastInternal) →
      v = s.bus.shadow.get a ∧
      t = { s with
        bus := { s.bus with lastInternal := true, log := .read a true false false :: s.bus.log }
        free := s.free + 1 }) ∧
    ((s.policy a = .allExternal ∨ s.policy a = .readInternalWriteExternal) →
      t = { s with bus := t.bus, free := s.free + 1 } ∧ t.bus.snap.ready = true ∧ t.bus.lastInternal = false ∧
      (∃ sync, t.bus.log = .read a true true sync :: s.bus.log ∧ (s.sched.runMode = .singleStep → sync = true) ∧
        (s.sched.runMode ≠ .singleStep → (s.cfg.syncInRunning = .always → sync = true) ∧
          (s.cfg.syncInRunning = .never → sync = false))) ∧
      v = (if s.policy a = .allExternal ∨ (region s.cfg a = .device ∧ s.cfg.devReadSource = .dataIn)
        then t.bus.snap.dataIn else s.bus.shadow.get a))

/-- O16. A bus read takes the first sample with READY active; if none comes, the instruction holds. (20_memory R73)
That the hold is a stop of the step is the model's (log 9). -/
def Obligations.StuckReadyHoldsForEver : Prop :=
  (∀ (s : State) (a : Addr) (waits : List Sample) (smp : Sample) (rest : List Sample),
      fastRead (s.policy a) = false → (∀ w ∈ waits, w.ready = false) → smp.ready = true →
      s.bus.partner.samples = waits ++ smp :: rest →
      ∃ v t, memRead a s = some (v, t) ∧ t.bus.snap = smp ∧ t.bus.partner.samples = rest) ∧
    ∀ s : State, (∀ w ∈ s.bus.partner.samples, w.ready = false) → s.bus.partner.lines.ready = false →
      (∀ a, fastRead (s.policy a) = false → memRead a s = none) ∧
      ∀ i : Instr, isJam i = false → fastRead (s.policy (s.cpu.pc + 1)) = false → exec i s = .fault .readyHold

/-- O17. A byte written below the ROM window is read back under any internal policy, even if the level changed in
between. (R69) -/
def Obligations.MirroredByteIsReadBack : Prop :=
  ∀ (s t : State) (a : Addr) (v w : Byte) (l : AccelLevel), a < s.cfg.romBase →
    (region s.cfg a = .device → s.cfg.devReadSource = .shadow) → classify s.cfg a l ≠ .allExternal →
    memRead a { memWrite a v s with bus := { (memWrite a v s).bus with accel := l } } = some (w, t) → w = v

/-- O18. A write to the ROM window reaches the bus and not the shadow memory, and a read there returns DATA_IN.
(20_memory R70) That the partner's memory takes the byte is the model's (log 6). -/
def Obligations.RomWindowGoesToTheBus : Prop :=
  ∀ (s : State) (a : Addr) (v : Byte), s.cfg.windowsDisjoint = true → s.cfg.romBase ≤ a →
    (∀ b, (memWrite a v s).bus.shadow.get b = s.bus.shadow.get b) ∧
    (memWrite a v s).bus.log = .write a v true :: s.bus.log ∧
    (∀ b, (memWrite a v s).bus.partner.mem.get b = if b = a then v else s.bus.partner.mem.get b) ∧
    ∀ w t, memRead a s = some (w, t) → w = t.bus.snap.dataIn ∧ t.bus.shadow = s.bus.shadow

/-- O19. Each bus read at KEY_ADDR steps the matcher by its rule. (20_memory R72, 20_memory R81) The rule is the
spec's decision D10. -/
def Obligations.MatcherStepsOnEachRead : Prop :=
  ∀ (s t : State) (v : Byte),
    (memRead s.cfg.keyAddr s = some (v, t) ∨ memFetch s.cfg.keyAddr s = some (v, t)) →
    s.cfg.matcherEnabled = true →
    fastRead (s.policy s.cfg.keyAddr) = false →
    (s.bus.matcher = 4 → t.bus.matcher = 0 ∧
      t.bus.accel = (selectorOf s.cfg.selector t.bus.snap.dataIn).getD s.bus.accel) ∧
    (∀ k : Fin 4, s.bus.matcher = k.castSucc → t.bus.accel = s.bus.accel ∧
      t.bus.matcher =
        if t.bus.snap.dataIn = ![s.cfg.key0, s.cfg.key1, s.cfg.key2, s.cfg.key3] k then k.succ
        else if t.bus.snap.dataIn = s.cfg.key0 then 1 else 0)

/-- O20. Power-on copies a loader block into the shadow memory and leaves the other shadow bytes. (20_memory R89,
70_reset_and_hazards R460) After power-on with one block of at most 65536 bytes at a base address: the shadow byte at
base + k is byte k of the block for every k of the block; every other shadow byte is what it was; the run mode is
Resetting, the level is ACCEL_INIT, the engine is not halted, and no host command is accepted before the first reset
sequence (log 28). -/
def Obligations.LoaderCopiesItsBlock : Prop :=
  ∀ (s : State) (base : Addr) (bytes : List Byte), bytes.length ≤ 65536 →
    (∀ (k : Nat) (v : Byte), bytes[k]? = some v →
      (powerOn [(base, bytes)] s).bus.shadow.get (base + BitVec.ofNat 16 k) = v) ∧
    (∀ a : Addr, bytes.length ≤ (a - base).toNat →
      (powerOn [(base, bytes)] s).bus.shadow.get a = s.bus.shadow.get a) ∧
    (powerOn [(base, bytes)] s).sched.runMode = .resetting ∧
    (powerOn [(base, bytes)] s).bus.accel = s.cfg.accelInit ∧ (powerOn [(base, bytes)] s).sched.halted = false ∧
    nextCommand (powerOn [(base, bytes)] s) = none

/-- O21. LDA, LDX and LDY load the operand byte, set N and Z from it and change nothing else. (R180, R181, R182) -/
def Obligations.LoadsTakeTheOperandByte : Prop :=
  ∀ s : State, s.answered →
    s.readForms ldaForms (fun v => { s.cpu with a := v }) flagsNZ ∧
    s.readForms ldxForms (fun v => { s.cpu with x := v }) flagsNZ ∧
    s.readForms ldyForms (fun v => { s.cpu with y := v }) flagsNZ

/-- O22. STA, STX, STY and SAX store their byte at the effective address and change no register and no flag. (R183,
R184, R185, R347) -/
def Obligations.StoresPutTheRegister : Prop :=
  ∀ s : State, s.answered →
    s.writeForms staForms s.cpu.a ∧ s.writeForms stxForms s.cpu.x ∧ s.writeForms styForms s.cpu.y ∧
    s.writeForms saxForms (s.cpu.a &&& s.cpu.x)

/-- O23. The six register transfers copy one register and set N and Z, but for TXS, which sets no flag. (R186, R187,
R188, R189, R190, R191) -/
def Obligations.TransfersCopyTheRegister : Prop :=
  ∀ s : State, s.answered →
    s.implied .tax 0xAA { s.cpu with x := s.cpu.a } (flagsNZ s.cpu.a) ∧
    s.implied .tay 0xA8 { s.cpu with y := s.cpu.a } (flagsNZ s.cpu.a) ∧
    s.implied .txa 0x8A { s.cpu with a := s.cpu.x } (flagsNZ s.cpu.x) ∧
    s.implied .tya 0x98 { s.cpu with a := s.cpu.y } (flagsNZ s.cpu.y) ∧
    s.implied .tsx 0xBA { s.cpu with x := s.cpu.sp } (flagsNZ s.cpu.sp) ∧
    s.implied .txs 0x9A { s.cpu with sp := s.cpu.x } []

/-- O24. ORA, AND and EOR combine the operand byte with A and set N and Z. (R220, R221, R222) -/
def Obligations.LogicCombinesWithTheAccumulator : Prop :=
  ∀ s : State, s.answered →
    s.readForms oraForms (fun v => { s.cpu with a := s.cpu.a ||| v }) (fun v => flagsNZ (s.cpu.a ||| v)) ∧
    s.readForms andForms (fun v => { s.cpu with a := s.cpu.a &&& v }) (fun v => flagsNZ (s.cpu.a &&& v)) ∧
    s.readForms eorForms (fun v => { s.cpu with a := s.cpu.a ^^^ v }) (fun v => flagsNZ (s.cpu.a ^^^ v))

/-- O25. ADC with D clear adds the operand and the carry, with carry out and two's-complement overflow. (42_alu R223,
42_alu R229) -/
def Obligations.BinaryAddWithCarry : Prop :=
  ∀ s : State, s.answered → s.flag .d = false →
    s.readForms adcForms
      (fun v => { s.cpu with a := BitVec.ofNat 8 (s.cpu.a.toNat + v.toNat + (s.flag .c).toNat) })
      (fun v => [(.c, decide (255 < s.cpu.a.toNat + v.toNat + (s.flag .c).toNat)),
        (.v, decide (s.cpu.a.toInt + v.toInt + (s.flag .c).toNat < -128 ∨
          127 < s.cpu.a.toInt + v.toInt + (s.flag .c).toNat))] ++
        flagsNZ (BitVec.ofNat 8 (s.cpu.a.toNat + v.toNat + (s.flag .c).toNat)))

/-- O26. SBC with D clear, at 0xEB too, subtracts the operand and the borrow, with carry as inverted borrow. (42_alu
R224, 42_alu R231, 46_illegal R354) -/
def Obligations.BinarySubtractWithBorrow : Prop :=
  ∀ s : State, s.answered → s.flag .d = false →
    s.readForms sbcForms
      (fun v => { s.cpu with a := BitVec.ofInt 8 ((s.cpu.a.toNat : Int) - v.toNat - (1 - (s.flag .c).toNat)) })
      (fun v => [(.c, decide (v.toNat + 1 ≤ s.cpu.a.toNat + (s.flag .c).toNat)),
        (.v, decide (s.cpu.a.toInt - v.toInt - (1 - (s.flag .c).toNat) < -128 ∨
          127 < s.cpu.a.toInt - v.toInt - (1 - (s.flag .c).toNat)))] ++
        flagsNZ (BitVec.ofInt 8 ((s.cpu.a.toNat : Int) - v.toNat - (1 - (s.flag .c).toNat))))

/-- O27. ADC and SBC with D set give the nibble-corrected results with the flags of the NMOS part. (42_alu R223,
42_alu R224, 42_alu R230, 42_alu R232, 46_illegal R354) These NMOS values are the spec's decision D19, taken by the
model (log 21). -/
def Obligations.DecimalArithmeticAndItsFlags : Prop :=
  ∀ s : State, s.answered → s.flag .d = true →
    (let low : Byte → Nat := fun v => s.cpu.a.toNat % 16 + v.toNat % 16 + (s.flag .c).toNat
     let t : Byte → Nat := fun v => (s.cpu.a.toNat - s.cpu.a.toNat % 16) + (v.toNat - v.toNat % 16) +
       (if 10 ≤ low v then (low v + 6) % 16 + 16 else low v)
     let u : Byte → Nat := fun v => if 0xA0 ≤ t v then t v + 0x60 else t v
     s.readForms adcForms (fun v => { s.cpu with a := BitVec.ofNat 8 (u v) })
       (fun v => [(.c, decide (0x100 ≤ u v)), (.n, (t v).testBit 7),
         (.v, s.cpu.a.getLsbD 7 == v.getLsbD 7 && (t v).testBit 7 != s.cpu.a.getLsbD 7),
         (.z, decide ((s.cpu.a.toNat + v.toNat + (s.flag .c).toNat) % 256 = 0))])) ∧
    (let low : Byte → Int := fun v => (s.cpu.a.toNat % 16 : Nat) - (v.toNat % 16 : Nat) + (s.flag .c).toNat - 1
     let t : Byte → Int := fun v => (s.cpu.a.toNat - s.cpu.a.toNat % 16 : Nat) - (v.toNat - v.toNat % 16 : Nat) +
       (if low v < 0 then (low v - 6) % 16 - 16 else low v)
     let bin : Byte → Int := fun v => (s.cpu.a.toNat : Int) - v.toNat - (1 - (s.flag .c).toNat)
     s.readForms sbcForms
       (fun v => { s.cpu with a := BitVec.ofInt 8 (if t v < 0 then t v - 0x60 else t v) })
       (fun v => [(.c, decide (0 ≤ bin v)),
         (.v, s.cpu.a.getLsbD 7 != v.getLsbD 7 && (BitVec.ofInt 8 (bin v)).getLsbD 7 != s.cpu.a.getLsbD 7)] ++
         flagsNZ (BitVec.ofInt 8 (bin v))))

/-- O28. For valid BCD operands decimal ADC and SBC give the decimal sum and difference with their carries. (42_alu
R230, 42_alu R232) -/
def Obligations.DecimalResultsAreDecimal : Prop :=
  ∀ (a m : Byte) (c : Bool),
    a.toNat % 16 ≤ 9 → a.toNat / 16 ≤ 9 → m.toNat % 16 ≤ 9 → m.toNat / 16 ≤ 9 →
    let num : Byte → Nat := fun b => b.toNat / 16 * 10 + b.toNat % 16
    let sum := adder true a m c
    let dif := subtracter true a m c
    sum.r.toNat % 16 ≤ 9 ∧ sum.r.toNat / 16 ≤ 9 ∧ dif.r.toNat % 16 ≤ 9 ∧ dif.r.toNat / 16 ≤ 9 ∧
      num sum.r = (num a + num m + c.toNat) % 100 ∧ sum.c = decide (100 ≤ num a + num m + c.toNat) ∧
      num dif.r = (num a + 100 + c.toNat - num m - 1) % 100 ∧ dif.c = decide (num m + 1 ≤ num a + c.toNat)

/-- O29. In binary mode, subtracting what was added gives the accumulator back. (42_alu R234) -/
def Obligations.SubtractionUndoesAddition : Prop :=
  ∀ s : State, s.quiet → s.flag .d = false → s.flag .c = false →
    ∃ t w, exec .adcImm s = .next t ∧
      exec .sbcImm { t with cpu := { t.cpu with p := putFlag .c true t.cpu.p, pc := s.cpu.pc } } = .next w ∧
      w.cpu.a = s.cpu.a

/-- O30. CMP, CPX and CPY set C, Z and N from the unsigned comparison and change nothing else. (R225, R226, R227,
R233) -/
def Obligations.ComparesSetTheFlags : Prop :=
  ∀ s : State, s.answered →
    s.readForms cmpForms (fun _ => s.cpu)
      (fun v => [(.c, decide (v.toNat ≤ s.cpu.a.toNat)), (.z, decide (s.cpu.a = v)), (.n, (s.cpu.a - v).getLsbD 7)]) ∧
    s.readForms cpxForms (fun _ => s.cpu)
      (fun v => [(.c, decide (v.toNat ≤ s.cpu.x.toNat)), (.z, decide (s.cpu.x = v)), (.n, (s.cpu.x - v).getLsbD 7)]) ∧
    s.readForms cpyForms (fun _ => s.cpu)
      (fun v => [(.c, decide (v.toNat ≤ s.cpu.y.toNat)), (.z, decide (s.cpu.y = v)), (.n, (s.cpu.y - v).getLsbD 7)])

/-- O31. BIT sets Z from A AND M, N and V from bits 7 and 6 of M, and changes nothing else. (R228) -/
def Obligations.BitTestTakesFlagsFromMemory : Prop :=
  ∀ s : State, s.answered →
    s.readForms bitForms (fun _ => s.cpu)
      (fun v => [(.z, decide (s.cpu.a &&& v = 0)), (.n, v.getLsbD 7), (.v, v.getLsbD 6)])

/-- O32. ASL, LSR, ROL and ROR of the accumulator shift it by one bit through the carry. (43_rmw_incdec_shift R250,
43_rmw_incdec_shift R251, 43_rmw_incdec_shift R252, 43_rmw_incdec_shift R253, 43_rmw_incdec_shift R260) -/
def Obligations.AccumulatorShifts : Prop :=
  ∀ s : State, s.answered →
    s.implied .aslAcc 0x0A { s.cpu with a := s.cpu.a <<< 1 } ((.c, s.cpu.a.getLsbD 7) :: flagsNZ (s.cpu.a <<< 1)) ∧
    s.implied .lsrAcc 0x4A { s.cpu with a := s.cpu.a >>> 1 } ((.c, s.cpu.a.getLsbD 0) :: flagsNZ (s.cpu.a >>> 1)) ∧
    s.implied .rolAcc 0x2A { s.cpu with a := s.cpu.a <<< 1 ||| BitVec.ofNat 8 (s.flag .c).toNat }
      ((.c, s.cpu.a.getLsbD 7) :: flagsNZ (s.cpu.a <<< 1 ||| BitVec.ofNat 8 (s.flag .c).toNat)) ∧
    s.implied .rorAcc 0x6A { s.cpu with a := s.cpu.a >>> 1 ||| BitVec.ofNat 8 ((s.flag .c).toNat * 128) }
      ((.c, s.cpu.a.getLsbD 0) :: flagsNZ (s.cpu.a >>> 1 ||| BitVec.ofNat 8 ((s.flag .c).toNat * 128)))

/-- O33. ASL, LSR, ROL, ROR, INC and DEC of memory store the old byte and then the new one at the effective address.
(43_rmw_incdec_shift R250, 43_rmw_incdec_shift R251, 43_rmw_incdec_shift R252, 43_rmw_incdec_shift R253,
43_rmw_incdec_shift R254, 43_rmw_incdec_shift R255, 43_rmw_incdec_shift R260, 40_addressing R141) -/
def Obligations.MemoryModifiersWriteTwice : Prop :=
  ∀ s : State, s.answered →
    s.modifyForms aslForms (fun m => m <<< 1) (fun _ => s.cpu) (fun m => (.c, m.getLsbD 7) :: flagsNZ (m <<< 1)) ∧
    s.modifyForms lsrForms (fun m => m >>> 1) (fun _ => s.cpu) (fun m => (.c, m.getLsbD 0) :: flagsNZ (m >>> 1)) ∧
    s.modifyForms rolForms (fun m => m <<< 1 ||| BitVec.ofNat 8 (s.flag .c).toNat) (fun _ => s.cpu)
      (fun m => (.c, m.getLsbD 7) :: flagsNZ (m <<< 1 ||| BitVec.ofNat 8 (s.flag .c).toNat)) ∧
    s.modifyForms rorForms (fun m => m >>> 1 ||| BitVec.ofNat 8 ((s.flag .c).toNat * 128)) (fun _ => s.cpu)
      (fun m => (.c, m.getLsbD 0) :: flagsNZ (m >>> 1 ||| BitVec.ofNat 8 ((s.flag .c).toNat * 128))) ∧
    s.modifyForms incForms (fun m => m + 1) (fun _ => s.cpu) (fun m => flagsNZ (m + 1)) ∧
    s.modifyForms decForms (fun m => m - 1) (fun _ => s.cpu) (fun m => flagsNZ (m - 1))

/-- O34. INX, INY, DEX and DEY step their register by one modulo 256 and set N and Z only. (R256, R257, R258, R259) -/
def Obligations.RegisterStepsWrapAround : Prop :=
  ∀ s : State, s.answered →
    s.implied .inx 0xE8 { s.cpu with x := s.cpu.x + 1 } (flagsNZ (s.cpu.x + 1)) ∧
    s.implied .iny 0xC8 { s.cpu with y := s.cpu.y + 1 } (flagsNZ (s.cpu.y + 1)) ∧
    s.implied .dex 0xCA { s.cpu with x := s.cpu.x - 1 } (flagsNZ (s.cpu.x - 1)) ∧
    s.implied .dey 0x88 { s.cpu with y := s.cpu.y - 1 } (flagsNZ (s.cpu.y - 1))

/-- O35. SLO, RLA and SRE shift memory and combine the new byte with A. (R341, R342, R343) -/
def Obligations.ShiftAndLogicCombinations : Prop :=
  ∀ s : State, s.answered →
    s.modifyForms sloForms (fun m => m <<< 1) (fun m => { s.cpu with a := s.cpu.a ||| m <<< 1 })
      (fun m => (.c, m.getLsbD 7) :: flagsNZ (s.cpu.a ||| m <<< 1)) ∧
    s.modifyForms rlaForms (fun m => m <<< 1 ||| BitVec.ofNat 8 (s.flag .c).toNat)
      (fun m => { s.cpu with a := s.cpu.a &&& (m <<< 1 ||| BitVec.ofNat 8 (s.flag .c).toNat) })
      (fun m => (.c, m.getLsbD 7) :: flagsNZ (s.cpu.a &&& (m <<< 1 ||| BitVec.ofNat 8 (s.flag .c).toNat))) ∧
    s.modifyForms sreForms (fun m => m >>> 1) (fun m => { s.cpu with a := s.cpu.a ^^^ m >>> 1 })
      (fun m => (.c, m.getLsbD 0) :: flagsNZ (s.cpu.a ^^^ m >>> 1))

/-- O36. RRA rotates memory and adds it with the carry it shifted out; ISC increments memory and subtracts it.
(46_illegal R344, 46_illegal R346, 42_alu R230, 42_alu R232) In decimal mode the results and flags are those of the
spec's decision D19, a DESIGN CHOICE of the model (log 21). -/
def Obligations.ShiftAndAddCombinations : Prop :=
  ∀ s : State, s.answered →
    (let r : Byte → Byte := fun m => m >>> 1 ||| BitVec.ofNat 8 ((s.flag .c).toNat * 128)
     let t : Byte → Arith := fun m => adder (s.flag .d) s.cpu.a (r m) (m.getLsbD 0)
     s.modifyForms rraForms r (fun m => { s.cpu with a := (t m).r })
       (fun m => [(.c, (t m).c), (.v, (t m).v), (.n, (t m).n), (.z, (t m).z)])) ∧
    (let t : Byte → Arith := fun m => subtracter (s.flag .d) s.cpu.a (m + 1) (s.flag .c)
     s.modifyForms iscForms (fun m => m + 1) (fun m => { s.cpu with a := (t m).r })
       (fun m => [(.c, (t m).c), (.v, (t m).v), (.n, (t m).n), (.z, (t m).z)]))

/-- O37. DCP decrements memory and compares A with the new byte. (R345) -/
def Obligations.DecrementAndCompareCombination : Prop :=
  ∀ s : State, s.answered →
    s.modifyForms dcpForms (fun m => m - 1) (fun _ => s.cpu)
      (fun m => [(.c, decide ((m - 1).toNat ≤ s.cpu.a.toNat)), (.z, decide (s.cpu.a = m - 1)),
        (.n, (s.cpu.a - (m - 1)).getLsbD 7)])

/-- O38. LAX, LAS, ANC, ALR and SBX combine the operand byte with the registers, each with its own flags. (R348, R349,
R350, R352, R353) -/
def Obligations.CombinedReads : Prop :=
  ∀ s : State, s.answered →
    s.readForms laxForms (fun v => { s.cpu with a := v, x := v }) flagsNZ ∧
    s.readForms lasForms (fun v => { s.cpu with a := v &&& s.cpu.sp, x := v &&& s.cpu.sp, sp := v &&& s.cpu.sp })
      (fun v => flagsNZ (v &&& s.cpu.sp)) ∧
    s.readForms ancForms (fun v => { s.cpu with a := s.cpu.a &&& v })
      (fun v => (.c, (s.cpu.a &&& v).getLsbD 7) :: flagsNZ (s.cpu.a &&& v)) ∧
    s.readForms alrForms (fun v => { s.cpu with a := (s.cpu.a &&& v) >>> 1 })
      (fun v => (.c, (s.cpu.a &&& v).getLsbD 0) :: flagsNZ ((s.cpu.a &&& v) >>> 1)) ∧
    s.readForms sbxForms (fun v => { s.cpu with x := (s.cpu.a &&& s.cpu.x) - v })
      (fun v => (.c, decide (v.toNat ≤ (s.cpu.a &&& s.cpu.x).toNat)) :: flagsNZ ((s.cpu.a &&& s.cpu.x) - v))

/-- O39. ARR with D clear rotates A AND M with its own C and V; with D set A and four flags are free values.
(46_illegal R351) With D = 1 it completes as well, with some byte in A and some values of N, V, Z, C, which the
statement leaves open; every other flag and register is unchanged, PC is past the instruction, and the state differs
otherwise only in the model's counter of free values (log 22). -/
def Obligations.AndRotateRight : Prop :=
  ∀ s : State, s.answered →
    (s.flag .d = false →
      let r : Byte → Byte := fun v => (s.cpu.a &&& v) >>> 1 ||| BitVec.ofNat 8 ((s.flag .c).toNat * 128)
      s.readForms arrForms (fun v => { s.cpu with a := r v })
        (fun v => [(.c, (r v).getLsbD 6), (.v, (r v).getLsbD 6 ^^ (r v).getLsbD 5)] ++ flagsNZ (r v))) ∧
    (s.flag .d = true → decodeOpcode 0x6B = .arrImm ∧
      ∃ v u a n vf z c p free, s.operandRead .imm v u ∧ flagsAre s.cpu.p p [(.n, n), (.v, vf), (.z, z), (.c, c)] ∧
        exec .arrImm s =
          .next { u with cpu := { s.cpu with a := a, p := p, pc := s.cpu.pc + 2 }, free := free })

/-- O40. Every NOP makes its addressing mode's reads and changes nothing but PC. (45_stack_flag_system R321,
46_illegal R355, 46_illegal R356, 46_illegal R357, 46_illegal R358, 46_illegal R359, 46_illegal R360) What the illegal
ones do is the spec's decision D23. -/
def Obligations.NoOperationsOnlyRead : Prop :=
  ∀ s : State, s.answered →
    (∀ n ∈ [(Instr.nop, 0xEA#8), (.nop1A, 0x1A#8), (.nop3A, 0x3A#8), (.nop5A, 0x5A#8), (.nop7A, 0x7A#8),
        (.nopDA, 0xDA#8), (.nopFA, 0xFA#8)], s.implied n.1 n.2 s.cpu []) ∧
    s.readForms nopForms (fun _ => s.cpu) (fun _ => [])

/-- O41. SHA, SHX, SHY, TAS and ANE fetch their operand bytes and change nothing but PC; LXA follows its parameter.
(46_illegal R365, 46_illegal R366, 46_illegal R367, 46_illegal R368, 46_illegal R369, 46_illegal R370, 46_illegal
R371) The transaction count and LXA are the spec's decisions D22 and D21. -/
def Obligations.UnstableOpcodesOnlyFetch : Prop :=
  ∀ s : State, s.answered →
    (∀ n ∈ [(Instr.shaIzy, 0x93#8), (.aneImm, 0x8B#8)], decodeOpcode n.2 = n.1 ∧
      ∃ d u, s.reads [(s.cpu.pc + 1, d)] u ∧
        exec n.1 s = .next { u with cpu := { s.cpu with pc := s.cpu.pc + 2 } }) ∧
    (∀ n ∈ [(Instr.shaAby, 0x9F#8), (.shxAby, 0x9E#8), (.shyAbx, 0x9C#8), (.tasAby, 0x9B#8)],
      decodeOpcode n.2 = n.1 ∧ ∃ lo hi u, s.reads [(s.cpu.pc + 1, lo), (s.cpu.pc + 2, hi)] u ∧
        exec n.1 s = .next { u with cpu := { s.cpu with pc := s.cpu.pc + 3 } }) ∧
    decodeOpcode 0xAB = .lxaImm ∧
    (s.cfg.lxa = .nop2 → ∃ d u, s.reads [(s.cpu.pc + 1, d)] u ∧
      exec .lxaImm s = .next { u with cpu := { s.cpu with pc := s.cpu.pc + 2 } }) ∧
    (s.cfg.lxa = .laxImm → s.readForms [⟨.lxaImm, 0xAB, .imm⟩] (fun v => { s.cpu with a := v, x := v }) flagsNZ)

/-- O42. Each branch tests its flag: not taken it reads the displacement only, taken one byte more, across a page two.
(44_control R280, 44_control R281 to R288, 70_reset_and_hazards R481) The page compared is the spec's decision D26. -/
def Obligations.BranchesTestOneFlag : Prop :=
  ∀ s : State, s.answered →
    ∀ b ∈ [(Instr.bpl, 0x10#8, Flag.n, false), (.bmi, 0x30#8, .n, true), (.bvc, 0x50#8, .v, false),
        (.bvs, 0x70#8, .v, true), (.bcc, 0x90#8, .c, false), (.bcs, 0xB0#8, .c, true), (.bne, 0xD0#8, .z, false),
        (.beq, 0xF0#8, .z, true)],
      decodeOpcode b.2.1 = b.1 ∧ ∃ d xs u, s.reads ((s.cpu.pc + 1, d) :: xs) u ∧
        (s.flag b.2.2.1 ≠ b.2.2.2 → xs = [] ∧
          exec b.1 s = .next { u with cpu := { s.cpu with pc := s.cpu.pc + 2 } }) ∧
        (s.flag b.2.2.1 = b.2.2.2 →
          let next := s.cpu.pc + 2
          let target := next + d.signExtend 16
          xs.map Prod.fst =
            (if hi8 target = hi8 next then [next] else [next, cat (hi8 next) (lo8 target)]) ∧
          exec b.1 s = .next { u with cpu := { s.cpu with pc := target } })

/-- O43. JMP goes to its operand; JMP indirect reads the pointer without leaving its page. (R290, R291) -/
def Obligations.JumpsGoToTheirTarget : Prop :=
  ∀ s : State, s.answered →
    (decodeOpcode 0x4C = .jmpAbs ∧ ∃ lo hi u, s.reads [(s.cpu.pc + 1, lo), (s.cpu.pc + 2, hi)] u ∧
      exec .jmpAbs s = .next { u with cpu := { s.cpu with pc := cat hi lo } }) ∧
    (decodeOpcode 0x6C = .jmpInd ∧ ∃ lo hi tl th u,
      s.reads [(s.cpu.pc + 1, lo), (s.cpu.pc + 2, hi), (cat hi lo, tl), (cat hi (lo + 1), th)] u ∧
      exec .jmpInd s = .next { u with cpu := { s.cpu with pc := cat th tl } })

/-- O44. JSR pushes the address of its last byte, high byte first, and jumps to its operand. (R292) -/
def Obligations.SubroutineCall : Prop :=
  ∀ s : State, s.answered → decodeOpcode 0x20 = .jsr ∧
    ∃ lo x hi u t w, s.reads [(s.cpu.pc + 1, lo), (s.stack s.cpu.sp, x)] u ∧
      u.stores [(s.stack s.cpu.sp, hi8 (s.cpu.pc + 2)), (s.stack (s.cpu.sp - 1), lo8 (s.cpu.pc + 2))] t ∧
      t.reads [(s.cpu.pc + 2, hi)] w ∧
      exec .jsr s = .next { w with cpu := { s.cpu with sp := s.cpu.sp - 2, pc := cat hi lo } }

/-- O45. RTS pulls an address, reads there, and continues one past it. (R293) -/
def Obligations.SubroutineReturn : Prop :=
  ∀ s : State, s.answered → decodeOpcode 0x60 = .rts ∧
    ∃ d x lo hi y u, s.reads [(s.cpu.pc + 1, d), (s.stack s.cpu.sp, x), (s.stack (s.cpu.sp + 1), lo),
        (s.stack (s.cpu.sp + 2), hi), (cat hi lo, y)] u ∧
      exec .rts s = .next { u with cpu := { s.cpu with sp := s.cpu.sp + 2, pc := cat hi lo + 1 } }

/-- O46. PHA pushes A and PHP pushes P with B and bit 5 set; neither changes a flag. (45_stack_flag_system R310,
45_stack_flag_system R312, 10_state R22) That PHP pushes B set whatever the stored B is is the spec's decision D15. -/
def Obligations.PushesStoreAtTheStackTop : Prop :=
  ∀ s : State, s.answered →
    ∀ r ∈ [(Instr.pha, 0x48#8, s.cpu.a), (.php, 0x08#8, s.cpu.p ||| 0x30#8)], decodeOpcode r.2.1 = r.1 ∧
      ∃ d u t, s.reads [(s.cpu.pc + 1, d)] u ∧ u.stores [(s.stack s.cpu.sp, r.2.2)] t ∧
        exec r.1 s = .next { t with cpu := { s.cpu with sp := s.cpu.sp - 1, pc := s.cpu.pc + 1 } }

/-- O47. PLA pulls A and sets N and Z; PLP pulls P with bit 5 forced to 1. (45_stack_flag_system R311,
45_stack_flag_system R313, 10_state R22, 10_state R26) That the stored B takes bit 4 of the byte is the spec's
decision D15. -/
def Obligations.PullsReadAboveTheStackTop : Prop :=
  ∀ s : State, s.answered →
    (decodeOpcode 0x68 = .pla ∧ ∃ d x v u p,
      s.reads [(s.cpu.pc + 1, d), (s.stack s.cpu.sp, x), (s.stack (s.cpu.sp + 1), v)] u ∧
      flagsAre s.cpu.p p (flagsNZ v) ∧
      exec .pla s =
        .next { u with cpu := { s.cpu with a := v, sp := s.cpu.sp + 1, p := p, pc := s.cpu.pc + 1 } }) ∧
    (decodeOpcode 0x28 = .plp ∧ ∃ d x v u,
      s.reads [(s.cpu.pc + 1, d), (s.stack s.cpu.sp, x), (s.stack (s.cpu.sp + 1), v)] u ∧
      exec .plp s =
        .next { u with cpu := { s.cpu with sp := s.cpu.sp + 1, p := v ||| 0x20, pc := s.cpu.pc + 1 } })

/-- O48. Each of the seven flag instructions writes exactly one flag. (R314, R315, R316, R317, R318, R319, R320) -/
def Obligations.FlagInstructionsWriteOneFlag : Prop :=
  ∀ s : State, s.answered →
    ∀ r ∈ [(Instr.clc, 0x18#8, Flag.c, false), (.sec, 0x38#8, .c, true), (.cli, 0x58#8, .i, false),
        (.sei, 0x78#8, .i, true), (.cld, 0xD8#8, .d, false), (.sed, 0xF8#8, .d, true), (.clv, 0xB8#8, .v, false)],
      s.implied r.1 r.2.1 s.cpu [(r.2.2.1, r.2.2.2)]

/-- O49. BRK sets B, pushes PC + 2 and the flags with the old I, and enters through VEC_IRQ with I set.
(45_stack_flag_system R330) The return address is the spec's decision D14. -/
def Obligations.BreakTakesTheTrap : Prop :=
  ∀ s : State, s.answered → decodeOpcode 0x00 = .brk ∧
    ∃ d u q t lo hi w p, s.reads [(s.cpu.pc + 1, d)] u ∧ flagsAre s.cpu.p q [(.b, true)] ∧
      u.stores [(s.stack s.cpu.sp, hi8 (s.cpu.pc + 2)), (s.stack (s.cpu.sp - 1), lo8 (s.cpu.pc + 2)),
        (s.stack (s.cpu.sp - 2), q)] t ∧
      t.reads [(s.cfg.vecIrq, lo), (s.cfg.vecIrq + 1, hi)] w ∧ flagsAre s.cpu.p p [(.b, true), (.i, true)] ∧
      exec .brk s = .next { w with cpu := { s.cpu with sp := s.cpu.sp - 3, p := p, pc := cat hi lo } }

/-- O50. RTI pulls the flags and then the return address, and continues exactly there. (45_stack_flag_system R331) The
stored B is the spec's decision D15. -/
def Obligations.ReturnFromInterrupt : Prop :=
  ∀ s : State, s.answered → decodeOpcode 0x40 = .rti ∧
    ∃ d x f lo hi u, s.reads [(s.cpu.pc + 1, d), (s.stack s.cpu.sp, x), (s.stack (s.cpu.sp + 1), f),
        (s.stack (s.cpu.sp + 2), lo), (s.stack (s.cpu.sp + 3), hi)] u ∧
      exec .rti s =
        .next { u with cpu := { s.cpu with sp := s.cpu.sp + 3, p := f ||| 0x20, pc := cat hi lo } }

/-- O51. An interrupt pushes PC and the flags with B clear and the old I, and enters through its vector with I set.
(60_exceptions R408, 60_exceptions R405, 60_exceptions R410) The dummy reads are the spec's decision D13. -/
def Obligations.InterruptEntry : Prop :=
  ∀ (s : State) (vec : Addr), s.answered →
    ∃ d d' u q t lo hi w p, s.reads [(s.cpu.pc, d), (s.cpu.pc, d')] u ∧ flagsAre s.cpu.p q [(.b, false)] ∧
      u.stores [(s.stack s.cpu.sp, hi8 s.cpu.pc), (s.stack (s.cpu.sp - 1), lo8 s.cpu.pc),
        (s.stack (s.cpu.sp - 2), q)] t ∧
      t.reads [(vec, lo), (vec + 1, hi)] w ∧ flagsAre s.cpu.p p [(.b, false), (.i, true)] ∧
      interrupt vec s =
        some { w with
          cpu := { s.cpu with sp := s.cpu.sp - 3, p := p, pc := cat hi lo }
          sched := { s.sched with ir := none } }

/-- O52. RTS undoes JSR but for PC, three further, and RTI undoes an interrupt entry but for the stored B, which is
clear. (44_control R292, 44_control R293, 10_state R22, 60_exceptions R408, 60_exceptions R417, 45_stack_flag_system
R331) That B is a stored bit, which RTI loads from the byte pulled, is the spec's decision D15. -/
def Obligations.ReturnsUndoTheirEntries : Prop :=
  ∀ s : State, s.quiet → lo8 s.cfg.stackBase = 0 → (∀ x, s.stack x < s.cfg.romBase) →
    (∃ t w, exec .jsr s = .next t ∧ exec .rts t = .next w ∧ w.cpu = { s.cpu with pc := s.cpu.pc + 3 }) ∧
    ∀ vec : Addr, s.flag .u = true → ∃ t w, interrupt vec s = some t ∧ exec .rti t = .next w ∧
      w.cpu = { s.cpu with p := putFlag .b false s.cpu.p }

/-- O53. A poll takes RESET in Running only, else an NMI edge, else an IRQ with I clear, else nothing, and always
samples NMI. (60_exceptions R403, 60_exceptions R404, 60_exceptions R415, 60_exceptions R440) The priority is the
spec's decision D17, the levels its decision D18. -/
def Obligations.PollTakesOneRequestByPriority : Prop :=
  ∀ s : State, s.answered →
    let l := nextLevels s
    let polled : State := { s with polls := s.polls.tail, sched := { s.sched with nmiPrev := l.nmiL } }
    (∃ t, poll s = some t ∧ t.sched.nmiPrev = l.nmiL ∧ t.polls = s.polls.tail) ∧
    (s.sched.runMode = .running → l.resetL = true →
      poll s = some { polled with sched := { polled.sched with runMode := .resetting } }) ∧
    (¬ (s.sched.runMode = .running ∧ l.resetL = true) →
      (l.nmiL = true → s.sched.nmiPrev = false → poll s = interrupt s.cfg.vecNmi polled) ∧
      (¬ (l.nmiL = true ∧ s.sched.nmiPrev = false) →
        (l.irqL = true → s.flag .i = false → poll s = interrupt s.cfg.vecIrq polled) ∧
        (¬ (l.irqL = true ∧ s.flag .i = false) → poll s = some polled)))

/-- O54. A step in Resetting runs the reset sequence: dummy reads, the vector, RESET_FLAGS, and no write.
(60_exceptions R412, 70_reset_and_hazards R461, 10_state R47) The number and addresses of the dummy reads are
parameters (log 13). -/
def Obligations.ResetSequenceLoadsTheVector : Prop :=
  ∀ s : State, s.sched.halted = false → s.sched.runMode = .resetting → nextCommand s = none → s.answered →
    s.cfg.resetFlags.getLsbD 5 = true →
    ∃ ds lo hi u a x y sp free, ds.map Prod.fst = s.cfg.resetDummies.map (resetReadAddr s) ∧
      (passSlot s).reads (ds ++ [(s.cfg.vecReset, lo), (s.cfg.vecReset + 1, hi)]) u ∧
      step s = .next { u with
        cpu := { a := a, x := x, y := y, sp := sp, p := s.cfg.resetFlags, pc := cat hi lo }
        sched := { s.sched with ir := none, runMode := s.cfg.modeAfterReset }
        free := free }

/-- O55. With nothing requested and nothing stopping it, a step is exec of the instruction decoded at PC.
(60_exceptions R440, 00_scope R15, 30_encoding R110) The arrangement of the loop is the spec's decision D28. -/
def Obligations.StepRunsTheDecodedInstruction : Prop :=
  ∀ (s u : State) (op : Byte) (more : List Byte) (c : Code) (rest : List Byte),
    s.sched.halted = false → (s.sched.runMode = .running ∨ s.sched.runMode = .singleStep) → s.sched.ir = none →
    s.host = [] → resetTaken s = false → nmiEdge s = false → irqTaken s = false →
    (s.sched.runMode = .running → stopCondition s = false) →
    memFetch s.cpu.pc (consumePoll s) = some (op, u) → decode (op :: more) = .ok (c, rest) →
    let v : State := { u with
      sched := { u.sched with traceSeq := if s.sched.traceEnable then s.sched.traceSeq + 1 else s.sched.traceSeq }
      out := { u.out with
        trace := if s.sched.traceEnable then (s.sched.traceSeq, s.cpu.pc) :: s.out.trace else s.out.trace } }
    (s.quiet → op = s.view s.cpu.pc) ∧ v.cpu = s.cpu ∧
    step s =
      match exec c.instr v with
      | .next t =>
        if s.sched.runMode = .singleStep ∧ t.sched.halted = false
        then .next { t with sched := { t.sched with runMode := .waiting } } else .next t
      | .fault r => .fault r
      | .refused r => .refused r

/-- O56. In Waiting with an opcode fetched, a host write at PC and then step or run execute the opcode fetched before.
(70_reset_and_hazards R474, 10_state R42, 60_exceptions R440) The model's step is one command or one turn (log 27). -/
def Obligations.PrefetchedOpcodeIsWhatRuns : Prop :=
  ∀ (s : State) (op v : Byte), s.sched.halted = false → s.sched.runMode = .waiting → s.sched.ir = some op →
    (s.host = [some (.writeByte s.cpu.pc v), some .step] →
    ∃ t w, step s = .next t ∧ t = memWrite s.cpu.pc v { s with host := [some .step] } ∧ step t = .next w ∧
      w = { t with host := [], sched := { t.sched with runMode := .singleStep } } ∧
      step w =
        match exec (decodeOpcode op) { w with sched := { w.sched with ir := none } } with
        | .next x =>
          if x.sched.halted = false ∧ x.sched.runMode = .singleStep
          then .next { x with sched := { x.sched with runMode := .waiting } } else .next x
        | .fault r => .fault r
        | .refused r => .refused r) ∧
    (s.host = [some (.writeByte s.cpu.pc v), some .run] →
    ∃ t w, step s = .next t ∧ t = memWrite s.cpu.pc v { s with host := [some .run] } ∧ step t = .next w ∧
      w = { t with host := [], sched := { t.sched with runMode := .running } } ∧
      (¬ w.stopDue → step w = exec (decodeOpcode op) { w with sched := { w.sched with ir := none } }))

/-- O57. In Running a breakpoint, run_to, fence violation or cancel stops after the fetch and before execution.
(60_exceptions R443, 60_exceptions R440) What is cleared is the spec's decision D28 (log 19). -/
def Obligations.StopConditionHoldsBeforeExecution : Prop :=
  (∀ s : State, s.sched.halted = false → s.sched.runMode = .running → s.sched.ir = none → s.host = [] →
    resetTaken s = false → nmiEdge s = false → irqTaken s = false → s.answered → s.stopDue →
    ∃ t, step s = .next t ∧ t.sched.runMode = .waiting ∧ t.sched.ir.isSome = true ∧ t.cpu = s.cpu ∧
      t.bus.shadow = s.bus.shadow ∧ t.bus.partner.mem = s.bus.partner.mem ∧ t.sched.runTo = none ∧
      t.sched.cancelRequested = false ∧ t.sched.breakpoint = s.sched.breakpoint ∧ t.sched.fence = s.sched.fence) ∧
    (∀ (s : State) (op : Byte) (rest : List (Option Command)), s.sched.halted = false →
      s.sched.runMode = .waiting → s.sched.ir = some op → s.host = some .run :: rest →
      step s = .next { s with host := rest, sched := { s.sched with runMode := .running } }) ∧
    ∀ (s : State) (op : Byte), s.sched.halted = false → s.sched.runMode = .running → s.sched.ir = some op →
      s.host = [] → s.stopDue →
      step s = .next { s with
        sched := { s.sched with runMode := .waiting, runTo := none, cancelRequested := false } }

/-- O58. With the trace on, a step that fetches an opcode emits one pair; no other step emits any. (60_exceptions
R445, 60_exceptions R440) The trace point is the spec's decision D28. -/
def Obligations.EveryFetchIsTracedOnce : Prop :=
  ∀ s t : State, step s = .next t →
    ∃ new, t.bus.log = new ++ s.bus.log ∧
      ((new.filter Access.isFetch = [] ∧ t.out.trace = s.out.trace ∧ t.sched.traceSeq = s.sched.traceSeq) ∨
        ∃ pc onBus sync, new.filter Access.isFetch = [.read pc true onBus sync] ∧ s.sched.ir = none ∧
          if s.sched.traceEnable = true
          then t.out.trace = (s.sched.traceSeq, pc) :: s.out.trace ∧ t.sched.traceSeq = s.sched.traceSeq + 1
          else t.out.trace = s.out.trace ∧ t.sched.traceSeq = s.sched.traceSeq)

/-- O59. The host's register setters mask their value; setting P keeps bit 5 set and setting PC drops the fetched
opcode. (10_state R48, 10_state R26, 60_exceptions R446) That accessors are accepted at every boundary is the spec's
decision D29 (log 28). -/
def Obligations.HostSetsRegistersMasked : Prop :=
  ∀ (s : State) (n : Nat) (rest : List (Option Command)), s.sched.halted = false →
    ∀ r : RegName, s.host = some (.setReg r n) :: rest →
      step s = .next
        { s with
          host := rest
          cpu :=
            match r with
            | .a => { s.cpu with a := BitVec.ofNat 8 n }
            | .x => { s.cpu with x := BitVec.ofNat 8 n }
            | .y => { s.cpu with y := BitVec.ofNat 8 n }
            | .sp => { s.cpu with sp := BitVec.ofNat 8 n }
            | .p => { s.cpu with p := BitVec.ofNat 8 n ||| 0x20 }
            | .pc => { s.cpu with pc := BitVec.ofNat 16 n }
          sched := if r = .pc then { s.sched with ir := none } else s.sched }

/-- O60. After a JAM the host reads halted and the registers, and no command restarts the engine or changes anything
else. (60_exceptions R448, 46_illegal R372, 10_state R48) That no command restarts the engine is the spec's decision
D24; that the setters have no effect there is the model's reading (log 10). -/
def Obligations.HostReadsTheLockedState : Prop :=
  (∀ (s : State) (slot : Option Command) (rest : List (Option Command)), s.sched.halted = true →
      s.host = slot :: rest →
      step s = .next { s with
        host := rest
        out := { s.out with
          replies :=
            (match slot with
              | some .getHalted => [Reply.halted true]
              | some (.getReg .a) => [.reg .a (zext16 s.cpu.a)]
              | some (.getReg .x) => [.reg .x (zext16 s.cpu.x)]
              | some (.getReg .y) => [.reg .y (zext16 s.cpu.y)]
              | some (.getReg .sp) => [.reg .sp (zext16 s.cpu.sp)]
              | some (.getReg .p) => [.reg .p (zext16 s.cpu.p)]
              | some (.getReg .pc) => [.reg .pc s.cpu.pc]
              | some .lastAccessInternal => [.internal s.bus.lastInternal]
              | some .getAccel => [.level s.bus.accel]
              | _ => []) ++ s.out.replies } }) ∧
    ∀ (s : State) (rest : List (Option Command)), s.sched.halted = false → s.host = some .getHalted :: rest →
      step s = .next { s with host := rest, out := { s.out with replies := .halted false :: s.out.replies } }
end

