-- ==== Sys2Proof/Laws/Memory.lean ====
section
/-! SUPPORT. The laws of the memory: read after write, and that every operation keeps the canonical form. -/

namespace Sys2Proof.Machine

open Sys2Proof

@[simp] theorem Memory.get_nil (a : Addr) : Memory.get [] a = unlisted := rfl

theorem Memory.get_erase_same (m : Memory) (a : Addr) : Memory.get (Memory.erase a.toNat m) a = unlisted := by
  induction m with
  | nil => rfl
  | cons c m ih =>
    obtain ⟨k, w⟩ := c
    by_cases h : k = a.toNat <;> simp [Memory.erase, Memory.get, h, ih]

theorem Memory.get_erase_other (m : Memory) {n : Nat} {b : Addr} (h : n ≠ b.toNat) :
    Memory.get (Memory.erase n m) b = Memory.get m b := by
  induction m with
  | nil => rfl
  | cons c m ih =>
    obtain ⟨k, w⟩ := c
    by_cases hk : k = n
    · subst hk; simp [Memory.erase, Memory.get, h, ih]
    · simp [Memory.erase, Memory.get, hk, ih]

theorem Memory.get_insert_other (m : Memory) {n : Nat} (v : Byte) {b : Addr} (h : n ≠ b.toNat) :
    Memory.get (Memory.insert n v m) b = Memory.get m b := by
  induction m with
  | nil => simp [Memory.insert, Memory.get, h]
  | cons c m ih =>
    obtain ⟨k, w⟩ := c
    by_cases hk : n < k <;> simp [Memory.insert, Memory.get, hk, h, ih]

theorem Memory.get_insert_erased (m : Memory) (a : Addr) (v : Byte) :
    Memory.get (Memory.insert a.toNat v (Memory.erase a.toNat m)) a = v := by
  induction m with
  | nil => simp [Memory.erase, Memory.insert, Memory.get]
  | cons c m ih =>
    obtain ⟨k, w⟩ := c
    by_cases hk : k = a.toNat
    · simp [Memory.erase, hk, ih]
    · by_cases hl : a.toNat < k <;> simp [Memory.erase, Memory.insert, Memory.get, hk, hl, ih]

/-- A read after a write to the same address gives the byte written. -/
@[simp] theorem Memory.get_set_same (m : Memory) (a : Addr) (v : Byte) : (m.set a v).get a = v := by
  unfold Memory.set
  split
  · rename_i h; rw [Memory.get_erase_same, h]
  · exact Memory.get_insert_erased m a v

/-- A write leaves every other address alone. -/
theorem Memory.get_set_other (m : Memory) {a b : Addr} (v : Byte) (h : b ≠ a) : (m.set a v).get b = m.get b := by
  have hn : a.toNat ≠ b.toNat := fun e => h (BitVec.eq_of_toNat_eq e).symm
  unfold Memory.set
  split
  · exact Memory.get_erase_other m hn
  · rw [Memory.get_insert_other _ _ hn, Memory.get_erase_other m hn]

theorem Memory.get_set (m : Memory) (a b : Addr) (v : Byte) :
    (m.set a v).get b = if b = a then v else m.get b := by
  split
  · subst_vars; exact Memory.get_set_same _ _ _
  · rename_i h; exact Memory.get_set_other _ _ h

/-- What `wfFrom` says of a list with a first entry. -/
theorem Memory.wfFrom_cons {n k : Nat} {v : Byte} {m : Memory} :
    Memory.wfFrom n ((k, v) :: m) = true ↔ n ≤ k ∧ k < 65536 ∧ v ≠ unlisted ∧ Memory.wfFrom (k + 1) m = true := by
  simp [Memory.wfFrom, and_assoc]

theorem Memory.wfFrom_mono {m : Memory} {n n' : Nat} (h : n' ≤ n) (hm : Memory.wfFrom n m = true) :
    Memory.wfFrom n' m = true := by
  cases m with
  | nil => rfl
  | cons c m =>
    obtain ⟨k, w⟩ := c
    rw [Memory.wfFrom_cons] at hm ⊢
    exact ⟨by omega, hm.2⟩

theorem Memory.wfFrom_erase {m : Memory} {n : Nat} (k : Nat) (hm : Memory.wfFrom n m = true) :
    Memory.wfFrom n (Memory.erase k m) = true := by
  induction m generalizing n with
  | nil => rfl
  | cons c m ih =>
    obtain ⟨j, w⟩ := c
    rw [Memory.wfFrom_cons] at hm
    by_cases hj : j = k
    · simpa [Memory.erase, hj] using ih (Memory.wfFrom_mono (by omega) hm.2.2.2)
    · simpa [Memory.erase, hj, Memory.wfFrom_cons] using ⟨hm.1, hm.2.1, hm.2.2.1, ih hm.2.2.2⟩

/-- Erasing an address that an ordered list holds leaves a list in which the address can be inserted. -/
theorem Memory.wfFrom_insert_erase {m : Memory} {n k : Nat} {v : Byte} (hn : n ≤ k) (hk : k < 65536)
    (hv : v ≠ unlisted) (hm : Memory.wfFrom n m = true) :
    Memory.wfFrom n (Memory.insert k v (Memory.erase k m)) = true := by
  induction m generalizing n with
  | nil => exact Memory.wfFrom_cons.mpr ⟨hn, hk, hv, rfl⟩
  | cons c m ih =>
    obtain ⟨j, w⟩ := c
    rw [Memory.wfFrom_cons] at hm
    by_cases hj : j = k
    · simpa [Memory.erase, hj] using ih hn (Memory.wfFrom_mono (by omega) hm.2.2.2)
    · by_cases hl : k < j
      · have := Memory.wfFrom_erase k hm.2.2.2
        simp only [Memory.erase, hj, if_false, Memory.insert, hl, if_true, Memory.wfFrom_cons]
        exact ⟨hn, hk, hv, by omega, hm.2.1, hm.2.2.1, this⟩
      · simp only [Memory.erase, hj, if_false, Memory.insert, hl, Memory.wfFrom_cons]
        exact ⟨hm.1, hm.2.1, hm.2.2.1, ih (by omega) hm.2.2.2⟩

/-- Every write keeps the canonical form. -/
theorem Memory.wf_set {m : Memory} (a : Addr) (v : Byte) (hm : m.wf = true) : (m.set a v).wf = true := by
  unfold Memory.set
  split
  · exact Memory.wfFrom_erase _ hm
  · rename_i h; exact Memory.wfFrom_insert_erase (Nat.zero_le _) a.isLt h hm

/-- Loading a block keeps the canonical form. -/
theorem Memory.wf_setBlock {m : Memory} (a : Addr) (l : List Byte) (hm : m.wf = true) :
    (m.setBlock a l).wf = true := by
  induction l generalizing m a with
  | nil => exact hm
  | cons v l ih => exact ih (a + 1) (Memory.wf_set a v hm)

/-- A block stored upward from `base` (20_memory R89): an address at least its length away reads as before, and byte
`k` of the block reads back at `base + k`, wrapping mod 65536. -/
theorem Memory.get_setBlock (m : Memory) (base : Addr) (bytes : List Byte) (hl : bytes.length ≤ 65536) :
    (∀ a : Addr, bytes.length ≤ (a - base).toNat → (m.setBlock base bytes).get a = m.get a) ∧
      ∀ (k : Nat) (v : Byte), bytes[k]? = some v → (m.setBlock base bytes).get (base + BitVec.ofNat 16 k) = v := by
  induction bytes generalizing m base with
  | nil => simp [Memory.setBlock]
  | cons b bs ih =>
    rw [List.length_cons] at hl
    obtain ⟨i1, i2⟩ := ih (m.set base b) (base + 1) (by omega)
    have hoff : ∀ a : Addr, a ≠ base → (a - (base + 1)).toNat = (a - base).toNat - 1 := by intro a ha; bv_omega
    have hself : (base - base).toNat = 0 := by simp
    refine ⟨fun a ha => ?_, fun k v hk => ?_⟩
    · rw [List.length_cons] at ha
      have hne : a ≠ base := by rintro rfl; omega
      rw [Memory.setBlock, i1 a (by rw [hoff a hne]; omega), Memory.get_set_other _ _ hne]
    · cases k with
      | zero =>
        rw [List.getElem?_cons_zero, Option.some.injEq] at hk
        have : ((base + BitVec.ofNat 16 0) - (base + 1)).toNat = 65535 := by bv_omega
        rw [Memory.setBlock, i1 _ (by rw [this]; omega), ← hk, show base + BitVec.ofNat 16 0 = base by simp,
          Memory.get_set_same]
      | succ k =>
        rw [List.getElem?_cons_succ] at hk
        rw [Memory.setBlock, ← i2 k v hk, BitVec.add_assoc, Nat.add_comm, BitVec.ofNat_add]
        rfl

theorem Memory.wf_nil : Memory.wf [] = true := rfl

end Sys2Proof.Machine
end

