-- ==== Sys2Proof/Laws/State.lean ====
section
/-! SUPPORT. One lemma for each field of State and each update, true by rfl: no later proof unfolds a record update. -/

namespace Sys2Proof.Machine

open Sys2Proof

variable (s : State)

@[simp] theorem State.setA_a (v : Byte) : (s.setA v).cpu.a = v := rfl
@[simp] theorem State.setA_x (v : Byte) : (s.setA v).cpu.x = s.cpu.x := rfl
@[simp] theorem State.setA_y (v : Byte) : (s.setA v).cpu.y = s.cpu.y := rfl
@[simp] theorem State.setA_sp (v : Byte) : (s.setA v).cpu.sp = s.cpu.sp := rfl
@[simp] theorem State.setA_p (v : Byte) : (s.setA v).cpu.p = s.cpu.p := rfl
@[simp] theorem State.setA_pc (v : Byte) : (s.setA v).cpu.pc = s.cpu.pc := rfl
@[simp] theorem State.setA_bus (v : Byte) : (s.setA v).bus = s.bus := rfl
@[simp] theorem State.setA_sched (v : Byte) : (s.setA v).sched = s.sched := rfl
@[simp] theorem State.setA_polls (v : Byte) : (s.setA v).polls = s.polls := rfl
@[simp] theorem State.setA_host (v : Byte) : (s.setA v).host = s.host := rfl
@[simp] theorem State.setA_out (v : Byte) : (s.setA v).out = s.out := rfl
@[simp] theorem State.setA_free (v : Byte) : (s.setA v).free = s.free := rfl
@[simp] theorem State.setA_cfg (v : Byte) : (s.setA v).cfg = s.cfg := rfl

@[simp] theorem State.setX_a (v : Byte) : (s.setX v).cpu.a = s.cpu.a := rfl
@[simp] theorem State.setX_x (v : Byte) : (s.setX v).cpu.x = v := rfl
@[simp] theorem State.setX_y (v : Byte) : (s.setX v).cpu.y = s.cpu.y := rfl
@[simp] theorem State.setX_sp (v : Byte) : (s.setX v).cpu.sp = s.cpu.sp := rfl
@[simp] theorem State.setX_p (v : Byte) : (s.setX v).cpu.p = s.cpu.p := rfl
@[simp] theorem State.setX_pc (v : Byte) : (s.setX v).cpu.pc = s.cpu.pc := rfl
@[simp] theorem State.setX_bus (v : Byte) : (s.setX v).bus = s.bus := rfl
@[simp] theorem State.setX_sched (v : Byte) : (s.setX v).sched = s.sched := rfl
@[simp] theorem State.setX_polls (v : Byte) : (s.setX v).polls = s.polls := rfl
@[simp] theorem State.setX_host (v : Byte) : (s.setX v).host = s.host := rfl
@[simp] theorem State.setX_out (v : Byte) : (s.setX v).out = s.out := rfl
@[simp] theorem State.setX_free (v : Byte) : (s.setX v).free = s.free := rfl
@[simp] theorem State.setX_cfg (v : Byte) : (s.setX v).cfg = s.cfg := rfl

@[simp] theorem State.setY_a (v : Byte) : (s.setY v).cpu.a = s.cpu.a := rfl
@[simp] theorem State.setY_x (v : Byte) : (s.setY v).cpu.x = s.cpu.x := rfl
@[simp] theorem State.setY_y (v : Byte) : (s.setY v).cpu.y = v := rfl
@[simp] theorem State.setY_sp (v : Byte) : (s.setY v).cpu.sp = s.cpu.sp := rfl
@[simp] theorem State.setY_p (v : Byte) : (s.setY v).cpu.p = s.cpu.p := rfl
@[simp] theorem State.setY_pc (v : Byte) : (s.setY v).cpu.pc = s.cpu.pc := rfl
@[simp] theorem State.setY_bus (v : Byte) : (s.setY v).bus = s.bus := rfl
@[simp] theorem State.setY_sched (v : Byte) : (s.setY v).sched = s.sched := rfl
@[simp] theorem State.setY_polls (v : Byte) : (s.setY v).polls = s.polls := rfl
@[simp] theorem State.setY_host (v : Byte) : (s.setY v).host = s.host := rfl
@[simp] theorem State.setY_out (v : Byte) : (s.setY v).out = s.out := rfl
@[simp] theorem State.setY_free (v : Byte) : (s.setY v).free = s.free := rfl
@[simp] theorem State.setY_cfg (v : Byte) : (s.setY v).cfg = s.cfg := rfl

@[simp] theorem State.setSp_a (v : Byte) : (s.setSp v).cpu.a = s.cpu.a := rfl
@[simp] theorem State.setSp_x (v : Byte) : (s.setSp v).cpu.x = s.cpu.x := rfl
@[simp] theorem State.setSp_y (v : Byte) : (s.setSp v).cpu.y = s.cpu.y := rfl
@[simp] theorem State.setSp_sp (v : Byte) : (s.setSp v).cpu.sp = v := rfl
@[simp] theorem State.setSp_p (v : Byte) : (s.setSp v).cpu.p = s.cpu.p := rfl
@[simp] theorem State.setSp_pc (v : Byte) : (s.setSp v).cpu.pc = s.cpu.pc := rfl
@[simp] theorem State.setSp_bus (v : Byte) : (s.setSp v).bus = s.bus := rfl
@[simp] theorem State.setSp_sched (v : Byte) : (s.setSp v).sched = s.sched := rfl
@[simp] theorem State.setSp_polls (v : Byte) : (s.setSp v).polls = s.polls := rfl
@[simp] theorem State.setSp_host (v : Byte) : (s.setSp v).host = s.host := rfl
@[simp] theorem State.setSp_out (v : Byte) : (s.setSp v).out = s.out := rfl
@[simp] theorem State.setSp_free (v : Byte) : (s.setSp v).free = s.free := rfl
@[simp] theorem State.setSp_cfg (v : Byte) : (s.setSp v).cfg = s.cfg := rfl

@[simp] theorem State.setP_a (v : Byte) : (s.setP v).cpu.a = s.cpu.a := rfl
@[simp] theorem State.setP_x (v : Byte) : (s.setP v).cpu.x = s.cpu.x := rfl
@[simp] theorem State.setP_y (v : Byte) : (s.setP v).cpu.y = s.cpu.y := rfl
@[simp] theorem State.setP_sp (v : Byte) : (s.setP v).cpu.sp = s.cpu.sp := rfl
@[simp] theorem State.setP_p (v : Byte) : (s.setP v).cpu.p = v := rfl
@[simp] theorem State.setP_pc (v : Byte) : (s.setP v).cpu.pc = s.cpu.pc := rfl
@[simp] theorem State.setP_bus (v : Byte) : (s.setP v).bus = s.bus := rfl
@[simp] theorem State.setP_sched (v : Byte) : (s.setP v).sched = s.sched := rfl
@[simp] theorem State.setP_polls (v : Byte) : (s.setP v).polls = s.polls := rfl
@[simp] theorem State.setP_host (v : Byte) : (s.setP v).host = s.host := rfl
@[simp] theorem State.setP_out (v : Byte) : (s.setP v).out = s.out := rfl
@[simp] theorem State.setP_free (v : Byte) : (s.setP v).free = s.free := rfl
@[simp] theorem State.setP_cfg (v : Byte) : (s.setP v).cfg = s.cfg := rfl

@[simp] theorem State.setPc_a (v : Addr) : (s.setPc v).cpu.a = s.cpu.a := rfl
@[simp] theorem State.setPc_x (v : Addr) : (s.setPc v).cpu.x = s.cpu.x := rfl
@[simp] theorem State.setPc_y (v : Addr) : (s.setPc v).cpu.y = s.cpu.y := rfl
@[simp] theorem State.setPc_sp (v : Addr) : (s.setPc v).cpu.sp = s.cpu.sp := rfl
@[simp] theorem State.setPc_p (v : Addr) : (s.setPc v).cpu.p = s.cpu.p := rfl
@[simp] theorem State.setPc_pc (v : Addr) : (s.setPc v).cpu.pc = v := rfl
@[simp] theorem State.setPc_bus (v : Addr) : (s.setPc v).bus = s.bus := rfl
@[simp] theorem State.setPc_sched (v : Addr) : (s.setPc v).sched = s.sched := rfl
@[simp] theorem State.setPc_polls (v : Addr) : (s.setPc v).polls = s.polls := rfl
@[simp] theorem State.setPc_host (v : Addr) : (s.setPc v).host = s.host := rfl
@[simp] theorem State.setPc_out (v : Addr) : (s.setPc v).out = s.out := rfl
@[simp] theorem State.setPc_free (v : Addr) : (s.setPc v).free = s.free := rfl
@[simp] theorem State.setPc_cfg (v : Addr) : (s.setPc v).cfg = s.cfg := rfl

@[simp] theorem State.setBus_cpu (v : Bus) : (s.setBus v).cpu = s.cpu := rfl
@[simp] theorem State.setBus_bus (v : Bus) : (s.setBus v).bus = v := rfl
@[simp] theorem State.setBus_sched (v : Bus) : (s.setBus v).sched = s.sched := rfl
@[simp] theorem State.setBus_polls (v : Bus) : (s.setBus v).polls = s.polls := rfl
@[simp] theorem State.setBus_host (v : Bus) : (s.setBus v).host = s.host := rfl
@[simp] theorem State.setBus_out (v : Bus) : (s.setBus v).out = s.out := rfl
@[simp] theorem State.setBus_free (v : Bus) : (s.setBus v).free = s.free := rfl
@[simp] theorem State.setBus_cfg (v : Bus) : (s.setBus v).cfg = s.cfg := rfl

@[simp] theorem State.setSched_cpu (v : Scheduler) : (s.setSched v).cpu = s.cpu := rfl
@[simp] theorem State.setSched_bus (v : Scheduler) : (s.setSched v).bus = s.bus := rfl
@[simp] theorem State.setSched_sched (v : Scheduler) : (s.setSched v).sched = v := rfl
@[simp] theorem State.setSched_polls (v : Scheduler) : (s.setSched v).polls = s.polls := rfl
@[simp] theorem State.setSched_host (v : Scheduler) : (s.setSched v).host = s.host := rfl
@[simp] theorem State.setSched_out (v : Scheduler) : (s.setSched v).out = s.out := rfl
@[simp] theorem State.setSched_free (v : Scheduler) : (s.setSched v).free = s.free := rfl
@[simp] theorem State.setSched_cfg (v : Scheduler) : (s.setSched v).cfg = s.cfg := rfl

@[simp] theorem State.setNZ_cpu (v : Byte) : (s.setNZ v).cpu = { s.cpu with p := putNZ v s.cpu.p } := rfl
@[simp] theorem State.setNZ_bus (v : Byte) : (s.setNZ v).bus = s.bus := rfl
@[simp] theorem State.setNZ_sched (v : Byte) : (s.setNZ v).sched = s.sched := rfl
@[simp] theorem State.setNZ_polls (v : Byte) : (s.setNZ v).polls = s.polls := rfl
@[simp] theorem State.setNZ_host (v : Byte) : (s.setNZ v).host = s.host := rfl
@[simp] theorem State.setNZ_out (v : Byte) : (s.setNZ v).out = s.out := rfl
@[simp] theorem State.setNZ_free (v : Byte) : (s.setNZ v).free = s.free := rfl
@[simp] theorem State.setNZ_cfg (v : Byte) : (s.setNZ v).cfg = s.cfg := rfl

@[simp] theorem State.setFlag_cpu (f : Flag) (on : Bool) : (s.setFlag f on).cpu = { s.cpu with p := putFlag f on s.cpu.p } := rfl
@[simp] theorem State.setFlag_bus (f : Flag) (on : Bool) : (s.setFlag f on).bus = s.bus := rfl
@[simp] theorem State.setFlag_sched (f : Flag) (on : Bool) : (s.setFlag f on).sched = s.sched := rfl
@[simp] theorem State.setFlag_polls (f : Flag) (on : Bool) : (s.setFlag f on).polls = s.polls := rfl
@[simp] theorem State.setFlag_host (f : Flag) (on : Bool) : (s.setFlag f on).host = s.host := rfl
@[simp] theorem State.setFlag_out (f : Flag) (on : Bool) : (s.setFlag f on).out = s.out := rfl
@[simp] theorem State.setFlag_free (f : Flag) (on : Bool) : (s.setFlag f on).free = s.free := rfl
@[simp] theorem State.setFlag_cfg (f : Flag) (on : Bool) : (s.setFlag f on).cfg = s.cfg := rfl

@[simp] theorem State.advance_cpu (n : Addr) : (s.advance n).cpu = { s.cpu with pc := s.cpu.pc + n } := rfl
@[simp] theorem State.advance_bus (n : Addr) : (s.advance n).bus = s.bus := rfl
@[simp] theorem State.advance_sched (n : Addr) : (s.advance n).sched = s.sched := rfl
@[simp] theorem State.advance_polls (n : Addr) : (s.advance n).polls = s.polls := rfl
@[simp] theorem State.advance_host (n : Addr) : (s.advance n).host = s.host := rfl
@[simp] theorem State.advance_out (n : Addr) : (s.advance n).out = s.out := rfl
@[simp] theorem State.advance_free (n : Addr) : (s.advance n).free = s.free := rfl
@[simp] theorem State.advance_cfg (n : Addr) : (s.advance n).cfg = s.cfg := rfl

@[simp] theorem State.clearIr_cpu : (s.clearIr).cpu = s.cpu := rfl
@[simp] theorem State.clearIr_bus : (s.clearIr).bus = s.bus := rfl
@[simp] theorem State.clearIr_sched : (s.clearIr).sched = { s.sched with ir := none } := rfl
@[simp] theorem State.clearIr_polls : (s.clearIr).polls = s.polls := rfl
@[simp] theorem State.clearIr_host : (s.clearIr).host = s.host := rfl
@[simp] theorem State.clearIr_out : (s.clearIr).out = s.out := rfl
@[simp] theorem State.clearIr_free : (s.clearIr).free = s.free := rfl
@[simp] theorem State.clearIr_cfg : (s.clearIr).cfg = s.cfg := rfl

@[simp] theorem State.setRunMode_cpu (m : RunMode) : (s.setRunMode m).cpu = s.cpu := rfl
@[simp] theorem State.setRunMode_bus (m : RunMode) : (s.setRunMode m).bus = s.bus := rfl
@[simp] theorem State.setRunMode_sched (m : RunMode) : (s.setRunMode m).sched = { s.sched with runMode := m } := rfl
@[simp] theorem State.setRunMode_polls (m : RunMode) : (s.setRunMode m).polls = s.polls := rfl
@[simp] theorem State.setRunMode_host (m : RunMode) : (s.setRunMode m).host = s.host := rfl
@[simp] theorem State.setRunMode_out (m : RunMode) : (s.setRunMode m).out = s.out := rfl
@[simp] theorem State.setRunMode_free (m : RunMode) : (s.setRunMode m).free = s.free := rfl
@[simp] theorem State.setRunMode_cfg (m : RunMode) : (s.setRunMode m).cfg = s.cfg := rfl

@[simp] theorem State.reply_cpu (r : Reply) : (s.reply r).cpu = s.cpu := rfl
@[simp] theorem State.reply_bus (r : Reply) : (s.reply r).bus = s.bus := rfl
@[simp] theorem State.reply_sched (r : Reply) : (s.reply r).sched = s.sched := rfl
@[simp] theorem State.reply_polls (r : Reply) : (s.reply r).polls = s.polls := rfl
@[simp] theorem State.reply_host (r : Reply) : (s.reply r).host = s.host := rfl
@[simp] theorem State.reply_out (r : Reply) : (s.reply r).out = { s.out with replies := r :: s.out.replies } := rfl
@[simp] theorem State.reply_free (r : Reply) : (s.reply r).free = s.free := rfl
@[simp] theorem State.reply_cfg (r : Reply) : (s.reply r).cfg = s.cfg := rfl

@[simp] theorem State.dropSlot_cpu : (s.dropSlot).cpu = s.cpu := rfl
@[simp] theorem State.dropSlot_bus : (s.dropSlot).bus = s.bus := rfl
@[simp] theorem State.dropSlot_sched : (s.dropSlot).sched = s.sched := rfl
@[simp] theorem State.dropSlot_polls : (s.dropSlot).polls = s.polls := rfl
@[simp] theorem State.dropSlot_host : (s.dropSlot).host = s.host.tail := rfl
@[simp] theorem State.dropSlot_out : (s.dropSlot).out = s.out := rfl
@[simp] theorem State.dropSlot_free : (s.dropSlot).free = s.free := rfl
@[simp] theorem State.dropSlot_cfg : (s.dropSlot).cfg = s.cfg := rfl

@[simp] theorem State.setArith_cpu (t : Arith) : (s.setArith t).cpu = { s.cpu with a := t.r, p := putArith t s.cpu.p } := rfl
@[simp] theorem State.setArith_bus (t : Arith) : (s.setArith t).bus = s.bus := rfl
@[simp] theorem State.setArith_sched (t : Arith) : (s.setArith t).sched = s.sched := rfl
@[simp] theorem State.setArith_polls (t : Arith) : (s.setArith t).polls = s.polls := rfl
@[simp] theorem State.setArith_host (t : Arith) : (s.setArith t).host = s.host := rfl
@[simp] theorem State.setArith_out (t : Arith) : (s.setArith t).out = s.out := rfl
@[simp] theorem State.setArith_free (t : Arith) : (s.setArith t).free = s.free := rfl
@[simp] theorem State.setArith_cfg (t : Arith) : (s.setArith t).cfg = s.cfg := rfl

/-- Two states with the same fields are equal. -/
theorem State.ext_fields {s t : State} (h1 : s.cpu = t.cpu) (h2 : s.bus = t.bus) (h3 : s.sched = t.sched)
    (h4 : s.polls = t.polls) (h5 : s.host = t.host) (h6 : s.out = t.out) (h7 : s.free = t.free)
    (h8 : s.cfg = t.cfg) : s = t := by
  cases s; cases t; simp_all

end Sys2Proof.Machine
end

