-- ==== Sys2Proof/Laws/Bus.lean ====
section
/-! SUPPORT. The laws of the bus unit: what the classifier says, what the partner answers, what one read and one write
can do (20_memory R63 to R73). -/

namespace Sys2Proof.Machine

open Sys2Proof

/-! ### The classifier -/

theorem narrowest_of_all_same {r : Region} (l : List (Nat × Region)) (h : ∀ w ∈ l, w.2 = r) (hne : l ≠ []) :
    ∃ n, narrowest l = some (n, r) := by
  induction l with
  | nil => exact absurd rfl hne
  | cons w ws ih =>
    have hw : w.2 = r := h w (by simp)
    cases ws with
    | nil => exact ⟨w.1, by simp [narrowest, ← hw]⟩
    | cons w' ws' =>
      obtain ⟨n, hn⟩ := ih (fun v hv => h v (by simp [hv])) (by simp)
      by_cases hlt : n < w.1
      · exact ⟨n, by rw [narrowest, hn]; simp [hlt]⟩
      · exact ⟨w.1, by rw [narrowest, hn]; simp [hlt, ← hw]⟩

/-- Where the windows do not overlap, the kind of an address is decided by the chain of 20_memory R63. -/
theorem region_of_disjoint {c : Config} (h : c.windowsDisjoint = true) (a : Addr) :
    region c a =
      if c.romBase ≤ a then .rom
      else if c.devLo ≤ a ∧ a ≤ c.devHi then .device
      else if c.dynWindows.any (Window.holds · a) = true then .dynamic
      else .other := by
  simp only [Config.windowsDisjoint, Bool.and_eq_true, decide_eq_true_eq, List.all_eq_true, Bool.or_eq_true] at h
  obtain ⟨hd, hw⟩ := h
  have hdyn : ∀ w ∈ c.dynWindows, Window.holds w a = true → a < c.romBase ∧ ¬ (c.devLo ≤ a ∧ a ≤ c.devHi) := by
    intro w hwm hh
    have := hw w hwm
    simp only [Window.holds, Bool.and_eq_true, decide_eq_true_eq] at hh
    constructor
    · bv_omega
    · bv_omega
  unfold region windowsAt
  by_cases hr : c.romBase ≤ a
  · have hnd : ¬ (c.devLo ≤ a ∧ a ≤ c.devHi) := by bv_omega
    have hf : c.dynWindows.filter (Window.holds · a) = [] := by
      rw [List.filter_eq_nil_iff]
      intro w hwm hh
      have := (hdyn w hwm hh).1
      bv_omega
    have hnd' : inDevice c a = false := by
      simp only [inDevice, Bool.and_eq_false_iff, decide_eq_false_iff_not]
      exact not_and_or.mp hnd
    simp [inRom, hr, hnd', hf, narrowest]
  · by_cases hdv : c.devLo ≤ a ∧ a ≤ c.devHi
    · have hf : c.dynWindows.filter (Window.holds · a) = [] := by
        rw [List.filter_eq_nil_iff]
        intro w hwm hh
        exact (hdyn w hwm hh).2 hdv
      simp [inRom, hr, inDevice, hdv, hf, narrowest]
    · have hnd' : inDevice c a = false := by
        simp only [inDevice, Bool.and_eq_false_iff, decide_eq_false_iff_not]
        exact not_and_or.mp hdv
      by_cases hy : c.dynWindows.any (Window.holds · a) = true
      · have hne : (c.dynWindows.filter (Window.holds · a)).map
            (fun w => (w.hi.toNat - w.lo.toNat, Region.dynamic)) ≠ [] := by
          simp only [ne_eq, List.map_eq_nil_iff, List.filter_eq_nil_iff, not_forall]
          obtain ⟨w, hwm, hh⟩ := List.any_eq_true.mp hy
          exact ⟨w, hwm, by simpa using hh⟩
        obtain ⟨n, hn⟩ := narrowest_of_all_same (r := .dynamic) _ (by rintro _ hw'; obtain ⟨_, -, rfl⟩ := List.mem_map.mp hw'; rfl) hne
        simp [inRom, hr, hnd', hn, hdv, hy]
      · have hf : c.dynWindows.filter (Window.holds · a) = [] := by
          rw [List.filter_eq_nil_iff]
          intro w hwm hh
          exact hy (List.any_eq_true.mpr ⟨w, hwm, hh⟩)
        simp [inRom, hr, hnd', hf, narrowest, hdv, hy]

/-- Where the windows do not overlap, `classify` is the chain of 20_memory R63. -/
theorem classify_of_disjoint {c : Config} (h : c.windowsDisjoint = true) (a : Addr) (l : AccelLevel) :
    classify c a l =
      if c.romBase ≤ a then .allExternal
      else if c.devLo ≤ a ∧ a ≤ c.devHi then .readInternalWriteExternal
      else if c.dynWindows.any (Window.holds · a) = true then l
      else .allExternal := by
  unfold classify
  rw [region_of_disjoint h]
  split_ifs <;> rfl

/-- An address read on the fast path never returns `DATA_IN`. -/
theorem returnsDataIn_of_fast {c : Config} {a : Addr} {l : AccelLevel} (h : fastRead (classify c a l) = true) :
    returnsDataIn c a (classify c a l) = false := by
  unfold returnsDataIn
  unfold classify at *
  cases hr : region c a <;> simp only [hr] at h ⊢ <;> cases l <;> simp_all [fastRead]

/-! ### The partner's answer -/

theorem firstReady_suffix {l : List Sample} {smp : Sample} {rest : List Sample}
    (h : firstReady l = some (smp, rest)) : rest <:+ l := by
  induction l with
  | nil => simp [firstReady] at h
  | cons x l ih =>
    by_cases hx : x.ready
    · simp only [firstReady, hx, if_true, Option.some.injEq, Prod.mk.injEq] at h
      rw [← h.2]; exact List.suffix_cons _ _
    · simp only [firstReady, hx] at h
      exact (ih h).trans (List.suffix_cons _ _)

theorem firstReady_ready {l : List Sample} {smp : Sample} {rest : List Sample} (h : firstReady l = some (smp, rest)) :
    smp.ready = true := by
  induction l with
  | nil => simp [firstReady] at h
  | cons x l ih =>
    by_cases hx : x.ready
    · simp only [firstReady, hx, if_true, Option.some.injEq, Prod.mk.injEq] at h
      rw [← h.1]; exact hx
    · simp only [firstReady, hx] at h
      exact ih h

/-- What an answer leaves of the partner: its memory, its constant levels and what is left of its script. -/
theorem Partner.answer_frame {p p' : Partner} {a : Addr} {smp : Sample} (h : p.answer a = some (smp, p')) :
    p'.mem = p.mem ∧ p'.lines = p.lines ∧ p'.samples <:+ p.samples ∧ smp.ready = true := by
  unfold Partner.answer at h
  split at h
  · rename_i smp0 rest heq
    simp only [Option.some.injEq, Prod.mk.injEq] at h
    obtain ⟨rfl, rfl⟩ := h
    exact ⟨rfl, rfl, firstReady_suffix heq, firstReady_ready heq⟩
  · split at h
    · simp only [Option.some.injEq, Prod.mk.injEq] at h
      obtain ⟨rfl, rfl⟩ := h
      exact ⟨rfl, rfl, List.nil_suffix, rfl⟩
    · simp at h

/-- A partner with READY active in the end always answers. -/
theorem Partner.answer_complete {p : Partner} (h : p.lines.ready = true) (a : Addr) :
    ∃ smp p', p.answer a = some (smp, p') := by
  unfold Partner.answer
  split
  · exact ⟨_, _, rfl⟩
  · simp [h]

/-- A partner with an empty script and READY active answers as a memory. -/
theorem Partner.answer_quiet {p : Partner} (hs : p.samples = []) (h : p.lines.ready = true) (a : Addr) :
    p.answer a =
      some ({ dataIn := p.mem.get a, ready := true, irq := p.lines.irq, nmi := p.lines.nmi, reset := p.lines.reset },
        p) := by
  obtain ⟨samples, mem, lines⟩ := p
  simp only at hs h
  subst hs
  simp [Partner.answer, firstReady, h]

/-! ### The matcher -/

/-- Observing a byte changes nothing but the level and the matcher. -/
theorem matcherObserve_frame (c : Config) (d : Byte) (b : Bus) :
    matcherObserve c d b = { b with
      accel := (matcherObserve c d b).accel, matcher := (matcherObserve c d b).matcher } := by
  unfold matcherObserve
  split
  · split <;> rfl
  · split
    · rfl
    · split <;> rfl

theorem observe_frame (c : Config) (a : Addr) (d : Byte) (b : Bus) :
    observe c a d b = { b with accel := (observe c a d b).accel, matcher := (observe c a d b).matcher } := by
  unfold observe
  split
  · exact matcherObserve_frame c d b
  · rfl

@[simp] theorem observe_shadow (c : Config) (a : Addr) (d : Byte) (b : Bus) : (observe c a d b).shadow = b.shadow := by
  rw [observe_frame]

@[simp] theorem observe_partner (c : Config) (a : Addr) (d : Byte) (b : Bus) :
    (observe c a d b).partner = b.partner := by
  rw [observe_frame]

@[simp] theorem observe_snap (c : Config) (a : Addr) (d : Byte) (b : Bus) : (observe c a d b).snap = b.snap := by
  rw [observe_frame]

@[simp] theorem observe_lastInternal (c : Config) (a : Addr) (d : Byte) (b : Bus) :
    (observe c a d b).lastInternal = b.lastInternal := by
  rw [observe_frame]

@[simp] theorem observe_log (c : Config) (a : Addr) (d : Byte) (b : Bus) : (observe c a d b).log = b.log := by
  rw [observe_frame]

theorem observe_other {c : Config} {a : Addr} (d : Byte) (b : Bus) (h : ¬ (a = c.keyAddr ∧ c.matcherEnabled = true)) :
    observe c a d b = b := by
  simp [observe, h]

/-! ### One read -/

/-- The two ways a read completes (20_memory R66, R67). -/
theorem readByte_cases {c : Config} {a : Addr} {fetch sync : Bool} {b b' : Bus} {v : Byte}
    (h : readByte c a fetch sync b = some (v, b')) :
    (fastRead (classify c a b.accel) = true ∧ (v, b') = fastReadByte a fetch b) ∨
    (fastRead (classify c a b.accel) = false ∧
      ∃ smp p, b.partner.answer a = some (smp, p) ∧ (v, b') = busRead c a fetch sync smp p b) := by
  unfold readByte at h
  by_cases hf : fastRead (classify c a b.accel) = true
  · left
    simp only [hf, if_true, Option.some.injEq] at h
    exact ⟨hf, h.symm⟩
  · right
    simp only [hf] at h
    refine ⟨by simpa using hf, ?_⟩
    cases hp : b.partner.answer a with
    | none => simp [hp] at h
    | some r =>
      obtain ⟨smp, p⟩ := r
      refine ⟨smp, p, rfl, ?_⟩
      simp only [hp, Bool.false_eq_true, if_false, Option.some.injEq] at h
      exact h.symm

/-- What one read leaves unchanged, and the one entry it adds to the log. -/
theorem readByte_frame {c : Config} {a : Addr} {fetch sync : Bool} {b b' : Bus} {v : Byte}
    (h : readByte c a fetch sync b = some (v, b')) :
    b'.shadow = b.shadow ∧ b'.partner.mem = b.partner.mem ∧ b'.partner.lines = b.partner.lines ∧
      b'.partner.samples <:+ b.partner.samples ∧
      ∃ onBus sy, b'.log = .read a fetch onBus sy :: b.log ∧
        ((c.matcherEnabled = false ∨ (onBus && decide (a = c.keyAddr)) = false) →
          b'.accel = b.accel ∧ b'.matcher = b.matcher) := by
  rcases readByte_cases h with ⟨-, he⟩ | ⟨-, smp, p, hp, he⟩
  · obtain ⟨-, rfl⟩ := Prod.mk.inj he
    exact ⟨rfl, rfl, rfl, List.suffix_refl _, false, false, rfl, fun _ => ⟨rfl, rfl⟩⟩
  · obtain ⟨-, rfl⟩ := Prod.mk.inj he
    obtain ⟨hm, hl, hsx, -⟩ := Partner.answer_frame hp
    refine ⟨by simp, by simp [hm], by simp [hl], by simpa using hsx, true, sync, by simp, fun hk => ?_⟩
    have : ¬ (a = c.keyAddr ∧ c.matcherEnabled = true) := by
      rcases hk with hk | hk
      · simp [hk]
      · intro ⟨h1, _⟩; simp [h1] at hk
    rw [observe_other _ _ this]
    exact ⟨rfl, rfl⟩

/-- A read completes when the partner asserts READY in the end. -/
theorem readByte_complete {b : Bus} (h : b.partner.lines.ready = true) (c : Config) (a : Addr) (fetch sync : Bool) :
    ∃ v b', readByte c a fetch sync b = some (v, b') := by
  unfold readByte
  split
  · exact ⟨_, _, rfl⟩
  · obtain ⟨smp, p, hp⟩ := Partner.answer_complete h a
    exact ⟨_, _, by rw [hp]⟩

/-! ### One write -/

theorem mirror_shadow (c : Config) (a b : Addr) (v : Byte) (u : Bus) :
    (mirror c a v u).shadow.get b = if b = a ∧ a < c.romBase then v else u.shadow.get b := by
  unfold mirror
  by_cases h : c.romBase ≤ a
  · have : ¬ a < c.romBase := by bv_omega
    simp [inRom, h, this]
  · have : a < c.romBase := by bv_omega
    simp [inRom, h, this, Memory.get_set]

theorem mirror_frame (c : Config) (a : Addr) (v : Byte) (u : Bus) :
    mirror c a v u = { u with shadow := (mirror c a v u).shadow } := by
  unfold mirror
  split <;> rfl

theorem mirror_wf (c : Config) (a : Addr) (v : Byte) {u : Bus} (h : u.shadow.wf = true) :
    (mirror c a v u).shadow.wf = true := by
  unfold mirror
  split
  · exact h
  · exact Memory.wf_set a v h

/-- The ROM part of the shadow memory is never written (20_memory R70). -/
theorem mirror_rom {c : Config} {b : Addr} (h : c.romBase ≤ b) (a : Addr) (v : Byte) (u : Bus) :
    (mirror c a v u).shadow.get b = u.shadow.get b := by
  rw [mirror_shadow]
  split
  · rename_i h'; exfalso; obtain ⟨rfl, h2⟩ := h'; bv_omega
  · rfl

theorem fastWrite_iff (p : AccessPolicy) : fastWrite p = true ↔ p = .allFastInternal := by
  cases p <;> simp [fastWrite]

/-- A write in its two forms (20_memory R68). -/
theorem writeByte_eq (c : Config) (a : Addr) (v : Byte) (u : Bus) :
    writeByte c a v u = { u with
      shadow := (mirror c a v u).shadow
      lastInternal := decide (classify c a u.accel = .allFastInternal)
      partner := if classify c a u.accel = .allFastInternal then u.partner else u.partner.wrote a v
      log := .write a v (!fastWrite (classify c a u.accel)) :: u.log } := by
  unfold writeByte
  rw [mirror_frame]
  by_cases h : classify c a u.accel = .allFastInternal
  · simp [h, fastWrite]
  · have hf : fastWrite (classify c a u.accel) = false := by
      simpa using (not_congr (fastWrite_iff _)).mpr h
    simp [h, hf]

theorem writeByte_shadow (c : Config) (a : Addr) (v : Byte) (u : Bus) :
    (writeByte c a v u).shadow = (mirror c a v u).shadow := by
  rw [writeByte_eq]

/-- The partner's bytes after a write. -/
theorem writeByte_partner_mem (c : Config) (a b : Addr) (v : Byte) (u : Bus) :
    (writeByte c a v u).partner.mem.get b =
      if b = a ∧ classify c a u.accel ≠ .allFastInternal then v else u.partner.mem.get b := by
  rw [writeByte_eq]
  by_cases h : classify c a u.accel = .allFastInternal
  · simp [h]
  · simp [h, Partner.wrote, Memory.get_set]

theorem writeByte_partner (c : Config) (a : Addr) (v : Byte) (u : Bus) :
    (writeByte c a v u).partner = { u.partner with mem := (writeByte c a v u).partner.mem } := by
  rw [writeByte_eq]
  by_cases h : classify c a u.accel = .allFastInternal <;> simp [h, Partner.wrote]

theorem writeByte_wf {c : Config} (a : Addr) (v : Byte) {u : Bus} (hs : u.shadow.wf = true)
    (hp : u.partner.mem.wf = true) :
    (writeByte c a v u).shadow.wf = true ∧ (writeByte c a v u).partner.mem.wf = true := by
  rw [writeByte_eq]
  refine ⟨mirror_wf c a v hs, ?_⟩
  by_cases h : classify c a u.accel = .allFastInternal
  · simpa [h] using hp
  · simpa [h, Partner.wrote] using Memory.wf_set a v hp

end Sys2Proof.Machine
end

