-- ==== Sys2Proof/Laws/Flags.lean ====
section
/-! SUPPORT. The laws of the flags byte: what each flag is after each flag computation, and that bit 5 stays
(10_state R25, R26). -/

namespace Sys2Proof.Machine

open Sys2Proof

/-- Writing a flag and reading a flag. -/
@[simp] theorem flagOf_putFlag (f g : Flag) (on : Bool) (p : Byte) :
    flagOf (putFlag f on p) g = if g = f then on else flagOf p g := by
  revert p
  cases f <;> cases g <;> cases on <;> simp [flagOf, putFlag, Flag.bit]

@[simp] theorem flagOf_putNZ (v p : Byte) (g : Flag) :
    flagOf (putNZ v p) g = if g = .z then decide (v = 0) else if g = .n then v.msb else flagOf p g := by
  simp [putNZ]

@[simp] theorem flagOf_putArith (t : Arith) (p : Byte) (g : Flag) :
    flagOf (putArith t p) g =
      if g = .z then t.z else if g = .n then t.n else if g = .v then t.v else if g = .c then t.c else flagOf p g := by
  simp [putArith]

@[simp] theorem flagOf_putCompare (r m p : Byte) (g : Flag) :
    flagOf (putCompare r m p) g =
      if g = .z then decide (r - m = 0) else if g = .n then (r - m).msb
      else if g = .c then decide (m ≤ r) else flagOf p g := by
  simp [putCompare]

@[simp] theorem flagOf_putBit (a m p : Byte) (g : Flag) :
    flagOf (putBit a m p) g =
      if g = .v then m.getLsbD 6 else if g = .n then m.getLsbD 7
      else if g = .z then decide (a &&& m = 0) else flagOf p g := by
  simp [putBit]

@[simp] theorem flagOf_putFreeNVZC (f p : Byte) (g : Flag) :
    flagOf (putFreeNVZC f p) g = if g = .c ∨ g = .z ∨ g = .v ∨ g = .n then flagOf f g else flagOf p g := by
  cases g <;> simp [putFreeNVZC]

/-- Loading `P` sets bit 5 and takes every other bit from the byte (10_state R26). -/
@[simp] theorem flagOf_flagsFrom (v : Byte) (g : Flag) :
    flagOf (flagsFrom v) g = if g = .u then true else flagOf v g := by
  cases g <;> simp [flagOf, flagsFrom, Flag.bit]

/-- Bit 5 of a flags byte under its flag name. -/
theorem getLsbD_five (p : Byte) : p.getLsbD 5 = flagOf p .u := rfl

@[simp] theorem flagsFrom_bit5 (v : Byte) : flagOf (flagsFrom v) .u = true := by simp

/-- Two flags bytes with the same flags are equal. -/
theorem flags_ext {p q : Byte} (h : ∀ f, flagOf p f = flagOf q f) : p = q := by
  apply BitVec.eq_of_getLsbD_eq
  intro i hi
  match i, hi with
  | 0, _ => exact h .c
  | 1, _ => exact h .z
  | 2, _ => exact h .i
  | 3, _ => exact h .d
  | 4, _ => exact h .b
  | 5, _ => exact h .u
  | 6, _ => exact h .v
  | 7, _ => exact h .n
  | n + 8, hn => exact absurd hn (by omega)

/-! ### The flags of each computation, as a list of what changes -/

theorem flagsAre_nil (p : Byte) : flagsAre p p [] := fun _ => rfl

theorem flagsAre_putFlag (f : Flag) (on : Bool) (p : Byte) : flagsAre p (putFlag f on p) [(f, on)] := by
  intro g; cases f <;> cases g <;> simp [updated]

theorem flagsAre_putNZ (v p : Byte) : flagsAre p (putNZ v p) [(.n, v.msb), (.z, decide (v = 0))] := by
  intro g; cases g <;> simp [updated]

theorem flagsAre_putArith (t : Arith) (p : Byte) :
    flagsAre p (putArith t p) [(.n, t.n), (.v, t.v), (.z, t.z), (.c, t.c)] := by
  intro g; cases g <;> simp [updated]

theorem flagsAre_putCompare (r m p : Byte) :
    flagsAre p (putCompare r m p) [(.n, (r - m).msb), (.z, decide (r - m = 0)), (.c, decide (m ≤ r))] := by
  intro g; cases g <;> simp [updated]

theorem flagsAre_putBit (a m p : Byte) :
    flagsAre p (putBit a m p) [(.n, m.getLsbD 7), (.v, m.getLsbD 6), (.z, decide (a &&& m = 0))] := by
  intro g; cases g <;> simp [updated]

/-- A carry and then `N` and `Z` of a result: the flags of the shifts, ANC and SBX. -/
theorem flagsAre_shift (c : Bool) (r p : Byte) :
    flagsAre p (putNZ r (putFlag .c c p)) [(.n, r.msb), (.z, decide (r = 0)), (.c, c)] := by
  intro g; cases g <;> simp [updated]

/-! ### Arithmetic results in numbers -/

/-- The sign bit of a byte in numbers. -/
theorem msb_toNat (a : Byte) : a.msb = decide (128 ≤ a.toNat) := by rw [BitVec.msb_eq_decide]

/-- The signed value of a byte in numbers. -/
theorem toInt_toNat (a : Byte) : a.toInt = if a.toNat < 128 then (a.toNat : Int) else a.toNat - 256 := by
  rw [BitVec.toInt_eq_toNat_cond]; split <;> split <;> omega

/-- The `V` of a binary add is the signed overflow (42_alu R229). -/
theorem addBin_overflow (a m : Byte) (c : Bool) : (addBin a m c).v =
    decide (a.toInt + m.toInt + (carryNat c : Nat) < -128 ∨ 127 < a.toInt + m.toInt + (carryNat c : Nat)) := by
  have ha := a.isLt; have hm := m.isLt
  have hc : carryNat c ≤ 1 := by cases c <;> decide
  simp only [addBin, msb_toNat, toInt_toNat, BitVec.toNat_ofNat]
  rw [Bool.eq_iff_iff]
  simp only [Bool.and_eq_true, beq_iff_eq, bne_iff_ne, ne_eq, decide_eq_decide, decide_eq_true_eq]
  split <;> split <;> omega

/-- The `V` of a binary subtraction is the signed overflow (42_alu R231). -/
theorem subBin_overflow (a m : Byte) (c : Bool) : (subBin a m c).v =
    decide (a.toInt - m.toInt - (1 - (carryNat c : Nat)) < -128 ∨
      127 < a.toInt - m.toInt - (1 - (carryNat c : Nat))) := by
  have ha := a.isLt; have hm := m.isLt
  have hc : carryNat c ≤ 1 := by cases c <;> decide
  simp only [subBin, msb_toNat, toInt_toNat, BitVec.toNat_ofInt]
  rw [Bool.eq_iff_iff]
  simp only [Bool.and_eq_true, bne_iff_ne, ne_eq, decide_eq_decide, decide_eq_true_eq]
  split <;> split <;> omega

/-- A carry as the lowest bit of a byte. -/
theorem ofNat_carry (c : Bool) : BitVec.ofNat 8 c.toNat = if c then 0x01#8 else 0x00#8 := by cases c <;> rfl

/-- A carry as the highest bit of a byte. -/
theorem ofNat_carry_high (c : Bool) : BitVec.ofNat 8 (c.toNat * 128) = if c then 0x80#8 else 0x00#8 := by
  cases c <;> rfl

/-! ### Bit 5 is kept -/

/-- A byte operation keeps bit 5 of the flags byte. -/
def ByteOp.keepsBit5 (f : ByteOp) : Prop := ∀ m p, flagOf (f m p).2 .u = flagOf p .u

theorem aslOp_bit5 : ByteOp.keepsBit5 aslOp := fun m p => by simp [aslOp]
theorem lsrOp_bit5 : ByteOp.keepsBit5 lsrOp := fun m p => by simp [lsrOp]
theorem rolOp_bit5 : ByteOp.keepsBit5 rolOp := fun m p => by simp [rolOp]
theorem rorOp_bit5 : ByteOp.keepsBit5 rorOp := fun m p => by simp [rorOp]
theorem incOp_bit5 : ByteOp.keepsBit5 incOp := fun m p => by simp [incOp]
theorem decOp_bit5 : ByteOp.keepsBit5 decOp := fun m p => by simp [decOp]
theorem incSilent_bit5 : ByteOp.keepsBit5 incSilent := fun _ _ => rfl
theorem decSilent_bit5 : ByteOp.keepsBit5 decSilent := fun _ _ => rfl
@[simp] theorem ancOp_bit5 (a m p : Byte) : flagOf (ancOp a m p).2 .u = flagOf p .u := by simp [ancOp]
@[simp] theorem arrOp_bit5 (a m p : Byte) : flagOf (arrOp a m p).2 .u = flagOf p .u := by simp [arrOp]
@[simp] theorem sbxOp_bit5 (a x m p : Byte) : flagOf (sbxOp a x m p).2 .u = flagOf p .u := by simp [sbxOp]

end Sys2Proof.Machine
end

