-- ==== Sys2Proof/Laws/Ops.lean ====
section
/-! SUPPORT. The laws of the named operations: what a read does (`State.onlyRead`, `State.didRead`), what a store does
(`State.stored`), what a read returns when the partner is a quiet memory. -/

namespace Sys2Proof.Machine

open Sys2Proof

/-! ### Nothing but reads -/

theorem State.readsOnly.refl (kind : Access → Bool) (s : State) : s.readsOnly kind s :=
  ⟨rfl, rfl, rfl, rfl, List.suffix_refl _, [], rfl, rfl, fun _ => ⟨rfl, rfl⟩⟩

theorem State.readsOnly.trans {kind : Access → Bool} {s t u : State} (h1 : s.readsOnly kind t)
    (h2 : t.readsOnly kind u) : s.readsOnly kind u := by
  obtain ⟨e1, a1, b1, c1, d1, l1, f1, g1, k1⟩ := h1
  obtain ⟨e2, a2, b2, c2, d2, l2, f2, g2, k2⟩ := h2
  have hcfg : t.cfg = s.cfg := by rw [e1]
  refine ⟨by rw [e2, e1], a2.trans a1, b2.trans b1, c2.trans c1, d2.trans d1, l2 ++ l1, ?_, ?_, fun hk => ?_⟩
  · rw [f2, f1, List.append_assoc]
  · simp [List.all_append, g1, g2]
  · have hk1 : s.cfg.matcherEnabled = false ∨ l1.any (Access.isBusReadAt s.cfg.keyAddr) = false := by
      rcases hk with hk | hk
      · exact .inl hk
      · rw [List.any_append, Bool.or_eq_false_iff] at hk; exact .inr hk.2
    have hk2 : t.cfg.matcherEnabled = false ∨ l2.any (Access.isBusReadAt t.cfg.keyAddr) = false := by
      rw [hcfg]
      rcases hk with hk | hk
      · exact .inl hk
      · rw [List.any_append, Bool.or_eq_false_iff] at hk; exact .inr hk.1
    exact ⟨(k2 hk2).1.trans (k1 hk1).1, (k2 hk2).2.trans (k1 hk1).2⟩

namespace State.readsOnly

variable {kind : Access → Bool} {s u : State} (h : s.readsOnly kind u)
include h

theorem cpu : u.cpu = s.cpu := by rw [h.1]
theorem sched : u.sched = s.sched := by rw [h.1]
theorem polls : u.polls = s.polls := by rw [h.1]
theorem host : u.host = s.host := by rw [h.1]
theorem out : u.out = s.out := by rw [h.1]
theorem free : u.free = s.free := by rw [h.1]
theorem cfg : u.cfg = s.cfg := by rw [h.1]
theorem shadow : u.bus.shadow = s.bus.shadow := h.2.1
theorem partnerMem : u.bus.partner.mem = s.bus.partner.mem := h.2.2.1
theorem lines : u.bus.partner.lines = s.bus.partner.lines := h.2.2.2.1
theorem samples : u.bus.partner.samples <:+ s.bus.partner.samples := h.2.2.2.2.1

theorem answered (ha : s.answered) : u.answered := by
  unfold State.answered; rw [h.lines]; exact ha

theorem accel_of_quiet (hq : s.quiet) : u.bus.accel = s.bus.accel := by
  obtain ⟨-, -, -, -, -, l, -, -, hk⟩ := h
  exact (hk (.inl hq.2.2)).1

theorem quiet (hq : s.quiet) : u.quiet := by
  refine ⟨by rw [h.lines]; exact hq.1, ?_, by rw [h.cfg]; exact hq.2.2⟩
  have := h.samples
  rw [hq.2.1] at this
  exact List.suffix_nil.mp this

theorem policy_of_quiet (hq : s.quiet) (a : Addr) : u.policy a = s.policy a := by
  unfold State.policy; rw [h.cfg, h.accel_of_quiet hq]

theorem view_of_quiet (hq : s.quiet) (a : Addr) : u.view a = s.view a := by
  unfold State.view; rw [h.policy_of_quiet hq, h.cfg, h.partnerMem, h.shadow]

theorem readEntry_of_quiet (hq : s.quiet) (a : Addr) : u.readEntry a = s.readEntry a := by
  unfold State.readEntry; rw [h.policy_of_quiet hq]

theorem readEntries_of_quiet (hq : s.quiet) (l : List Addr) : u.readEntries l = s.readEntries l := by
  unfold State.readEntries
  congr 1
  exact List.map_congr_left fun a _ => h.readEntry_of_quiet hq a

theorem writeEntry_of_quiet (hq : s.quiet) (a : Addr) (v : Byte) : u.writeEntry a v = s.writeEntry a v := by
  unfold State.writeEntry; rw [h.policy_of_quiet hq]

theorem inv (hi : s.inv) : u.inv := by
  unfold State.inv; rw [h.shadow, h.partnerMem, h.cpu]; exact hi

end State.readsOnly

theorem State.onlyRead.refl (s : State) : s.onlyRead s := State.readsOnly.refl _ s

theorem State.onlyRead.trans {s t u : State} (h1 : s.onlyRead t) (h2 : t.onlyRead u) : s.onlyRead u :=
  State.readsOnly.trans h1 h2

/-- Among the accesses of reads there is no opcode fetch. -/
theorem State.onlyRead.noFetch {s u : State} (h : s.onlyRead u) :
    ∃ l, u.bus.log = l ++ s.bus.log ∧ l.filter Access.isFetch = [] := by
  obtain ⟨-, -, -, -, -, l, e, hl, -⟩ := h
  refine ⟨l, e, List.filter_eq_nil_iff.mpr fun a ha => ?_⟩
  have := List.all_eq_true.mp hl a ha
  cases a <;> simp_all [Access.isRead, Access.isFetch]

theorem State.quiet.answered {s : State} (h : s.quiet) : s.answered := h.1

@[simp] theorem State.readEntries_nil (s : State) : s.readEntries [] = [] := rfl

theorem State.readEntries_append (s : State) (l l' : List Addr) :
    s.readEntries (l ++ l') = s.readEntries l' ++ s.readEntries l := by
  simp [State.readEntries]

theorem State.readEntries_cons (s : State) (a : Addr) (l : List Addr) :
    s.readEntries (a :: l) = s.readEntries l ++ [s.readEntry a] := by
  simp [State.readEntries]

theorem State.didRead.refl (s : State) : s.didRead [] s := ⟨.refl s, fun _ => rfl⟩

theorem State.didRead.trans {s t u : State} {l l' : List Addr} (h1 : s.didRead l t) (h2 : t.didRead l' u) :
    s.didRead (l ++ l') u := by
  refine ⟨h1.1.trans h2.1, fun hq => ?_⟩
  rw [h2.2 (h1.1.quiet hq), h1.2 hq, h1.1.readEntries_of_quiet hq, State.readEntries_append, List.append_assoc]

/-! ### One read -/

/-- Everything one `MemRead` can do. -/
theorem memRead_didRead {a : Addr} {s u : State} {v : Byte} (h : memRead a s = some (v, u)) :
    s.didRead [a] u ∧ (s.quiet → v = s.view a) := by
  unfold memRead at h
  cases hr : readByte s.cfg a false false s.bus with
  | none => simp [hr] at h
  | some r =>
    obtain ⟨w, b⟩ := r
    simp only [hr, Option.some.injEq, Prod.mk.injEq] at h
    obtain ⟨rfl, rfl⟩ := h
    obtain ⟨h1, h2, h3, h4, onBus, sy, h5, h6⟩ := readByte_frame hr
    refine ⟨⟨⟨rfl, h1, h2, h3, h4, [.read a false onBus sy], h5, rfl, fun hk => h6 ?_⟩, fun hq => ?_⟩, fun hq => ?_⟩
    · rcases hk with hk | hk
      · exact .inl hk
      · right; simpa [Access.isBusReadAt] using hk
    all_goals
      rcases readByte_cases hr with ⟨hf, he⟩ | ⟨hf, smp, p, hp, he⟩
      · obtain ⟨rfl, rfl⟩ := Prod.mk.inj he
        have hd := returnsDataIn_of_fast hf
        simp [State.readEntries, State.readEntry, State.policy, State.view, hf, hd]
      · rw [Partner.answer_quiet hq.2.1 hq.1] at hp
        obtain ⟨rfl, rfl⟩ := Prod.mk.inj (Option.some.inj hp)
        obtain ⟨rfl, rfl⟩ := Prod.mk.inj he
        have hn : ∀ d b, observe s.cfg a d b = b := fun d b => observe_other d b (by simp [hq.2.2])
        simp [State.readEntries, State.readEntry, State.policy, State.view, hf, hn] <;> rfl

/-- An opcode fetch is a read with one free value drawn (20_memory R74). -/
theorem memFetch_readsOnly {a : Addr} {s u : State} {v : Byte} (h : memFetch a s = some (v, u)) :
    ({ s with free := s.free + 1 } : State).readsOnly Access.isFetch u ∧ (s.quiet → v = s.view a) ∧
      ∃ onBus sync, u.bus.log = .read a true onBus sync :: s.bus.log := by
  unfold memFetch at h
  cases hr : readByte s.cfg a true (syncAllowed s) s.bus with
  | none => simp [hr] at h
  | some r =>
    obtain ⟨w, b⟩ := r
    simp only [hr, Option.some.injEq, Prod.mk.injEq] at h
    obtain ⟨rfl, rfl⟩ := h
    obtain ⟨h1, h2, h3, h4, onBus, sy, h5, h6⟩ := readByte_frame hr
    refine ⟨⟨rfl, h1, h2, h3, h4, [.read a true onBus sy], h5, rfl, fun hk => h6 ?_⟩, fun hq => ?_, onBus, sy, h5⟩
    · rcases hk with hk | hk
      · exact .inl hk
      · right; simpa [Access.isBusReadAt] using hk
    rcases readByte_cases hr with ⟨hf, he⟩ | ⟨hf, smp, p, hp, he⟩
    · obtain ⟨rfl, rfl⟩ := Prod.mk.inj he
      simp [State.policy, State.view, returnsDataIn_of_fast hf]
    · rw [Partner.answer_quiet hq.2.1 hq.1] at hp
      obtain ⟨rfl, rfl⟩ := Prod.mk.inj (Option.some.inj hp)
      obtain ⟨rfl, rfl⟩ := Prod.mk.inj he
      simp only [State.policy, State.view, observe_shadow]; rfl

theorem memFetch_complete {s : State} (h : s.answered) (a : Addr) : ∃ v u, memFetch a s = some (v, u) := by
  obtain ⟨v, b, hb⟩ := readByte_complete h s.cfg a true (syncAllowed s)
  exact ⟨v, { s with bus := b, free := s.free + 1 }, by simp only [memFetch, hb]⟩

/-- A read completes when the partner asserts READY in the end. -/
theorem memRead_complete {s : State} (h : s.answered) (a : Addr) : ∃ v u, memRead a s = some (v, u) := by
  obtain ⟨v, b, hb⟩ := readByte_complete h s.cfg a false false
  exact ⟨v, s.setBus b, by simp [memRead, hb]⟩

/-! ### One write -/

/-- Everything one `MemWrite` does. -/
theorem memWrite_stored (a : Addr) (v : Byte) (u : State) : u.stored a v (memWrite a v u) := by
  refine ⟨rfl, fun b => ?_, fun b => ?_, ?_, ?_, ?_, ?_, ?_, ?_⟩
  · simp [memWrite, writeByte_shadow, mirror_shadow]
  · exact writeByte_partner_mem u.cfg a b v u.bus
  · simpa [memWrite] using writeByte_partner u.cfg a v u.bus
  all_goals simp [memWrite, writeByte_eq, State.policy, State.writeEntry] <;> rfl

namespace State.stored

variable {u t : State} {a : Addr} {v : Byte} (h : u.stored a v t)
include h

theorem cpu : t.cpu = u.cpu := by rw [h.1]
theorem sched : t.sched = u.sched := by rw [h.1]
theorem cfg : t.cfg = u.cfg := by rw [h.1]
theorem shadow (b : Addr) : t.bus.shadow.get b = if b = a ∧ a < u.cfg.romBase then v else u.bus.shadow.get b := h.2.1 b
theorem partnerMem (b : Addr) :
    t.bus.partner.mem.get b = if b = a ∧ u.policy a ≠ .allFastInternal then v else u.bus.partner.mem.get b := h.2.2.1 b
theorem partner : t.bus.partner = { u.bus.partner with mem := t.bus.partner.mem } := h.2.2.2.1
theorem accel : t.bus.accel = u.bus.accel := h.2.2.2.2.1
theorem matcher : t.bus.matcher = u.bus.matcher := h.2.2.2.2.2.1
theorem log : t.bus.log = u.writeEntry a v :: u.bus.log := h.2.2.2.2.2.2.2.2

theorem answered (ha : u.answered) : t.answered := by
  unfold State.answered; rw [h.partner]; exact ha

theorem quiet (hq : u.quiet) : t.quiet := by
  unfold State.quiet; rw [h.partner, h.cfg]; exact hq

theorem policy (b : Addr) : t.policy b = u.policy b := by
  unfold State.policy; rw [h.cfg, h.accel]

theorem readEntry (b : Addr) : t.readEntry b = u.readEntry b := by
  unfold State.readEntry; rw [h.policy]

theorem readEntries (l : List Addr) : t.readEntries l = u.readEntries l := by
  unfold State.readEntries
  congr 1
  exact List.map_congr_left fun b _ => h.readEntry b

theorem writeEntry (b : Addr) (w : Byte) : t.writeEntry b w = u.writeEntry b w := by
  unfold State.writeEntry; rw [h.policy]

/-- What a read returns after a store, in a quiet state: the byte stored, at the address stored to, wherever that byte
is mirrored or reaches the partner that answers there. -/
theorem view_other {b : Addr} (hb : b ≠ a) : t.view b = u.view b := by
  unfold State.view; rw [h.policy, h.cfg, h.shadow, h.partnerMem]; simp [hb]

end State.stored

/-- After a store below the ROM window a read at the same address sees the byte, whatever the policy. -/
theorem State.stored.view_same {u t : State} {a : Addr} {v : Byte} (h : u.stored a v t) (ha : a < u.cfg.romBase) :
    t.view a = v := by
  unfold State.view
  rw [h.policy, h.cfg, h.shadow, h.partnerMem]
  by_cases hd : returnsDataIn u.cfg a (u.policy a) = true
  · have hp : u.policy a ≠ .allFastInternal := by
      intro hp
      have := returnsDataIn_of_fast (c := u.cfg) (a := a) (l := u.bus.accel)
        (by rw [show classify u.cfg a u.bus.accel = _ from hp]; rfl)
      rw [show classify u.cfg a u.bus.accel = u.policy a from rfl] at this
      simp [this] at hd
    simp [hd, hp]
  · simp [hd, ha]

theorem memWrite_inv {s : State} (a : Addr) (v : Byte) (h : s.inv) : (memWrite a v s).inv := by
  obtain ⟨h1, h2, h3⟩ := h
  exact ⟨(writeByte_wf a v h1 h2).1, (writeByte_wf a v h1 h2).2, h3⟩

/-! ### Words, the stack -/

theorem readWord_spec {a : Addr} {s u : State} {w : Addr} (h : readWord a s = some (w, u)) :
    s.didRead [a, a + 1] u ∧ (s.quiet → w = cat (s.view (a + 1)) (s.view a)) := by
  simp only [readWord, Option.bind_eq_bind, Option.bind_eq_some_iff, Prod.exists, Option.some.injEq, Prod.mk.injEq] at h
  obtain ⟨lo, s1, h1, hi, s2, h2, rfl, rfl⟩ := h
  obtain ⟨d1, v1⟩ := memRead_didRead h1
  obtain ⟨d2, v2⟩ := memRead_didRead h2
  refine ⟨d1.trans d2, fun hq => ?_⟩
  rw [v1 hq, v2 (d1.1.quiet hq), d1.1.view_of_quiet hq]

theorem readWord_complete {s : State} (h : s.answered) (a : Addr) : ∃ w u, readWord a s = some (w, u) := by
  obtain ⟨lo, s1, h1⟩ := memRead_complete h a
  obtain ⟨hi, s2, h2⟩ := memRead_complete ((memRead_didRead h1).1.1.answered h) (a + 1)
  exact ⟨cat hi lo, s2, by simp only [readWord, h1, h2, Option.bind_eq_bind, Option.bind_some]⟩

/-- `pull` is a read in the state with the stack pointer moved (00_scope R11). -/
theorem pull_eq (s : State) :
    pull s = memRead (s.cfg.stackBase ||| zext16 (s.cpu.sp + 1)) (s.setSp (s.cpu.sp + 1)) := rfl

theorem pull_complete {s : State} (h : s.answered) : ∃ v u, pull s = some (v, u) :=
  memRead_complete (s := s.setSp (s.cpu.sp + 1)) h _

/-- `push` stores at the stack address and then moves the stack pointer (00_scope R11). -/
theorem push_eq (v : Byte) (s : State) :
    push v s = (memWrite (s.cfg.stackBase ||| zext16 s.cpu.sp) v s).setSp (s.cpu.sp - 1) := rfl

@[simp] theorem memWrite_cpu (a : Addr) (v : Byte) (s : State) : (memWrite a v s).cpu = s.cpu := rfl
@[simp] theorem memWrite_sched (a : Addr) (v : Byte) (s : State) : (memWrite a v s).sched = s.sched := rfl
@[simp] theorem memWrite_polls (a : Addr) (v : Byte) (s : State) : (memWrite a v s).polls = s.polls := rfl
@[simp] theorem memWrite_host (a : Addr) (v : Byte) (s : State) : (memWrite a v s).host = s.host := rfl
@[simp] theorem memWrite_out (a : Addr) (v : Byte) (s : State) : (memWrite a v s).out = s.out := rfl
@[simp] theorem memWrite_free (a : Addr) (v : Byte) (s : State) : (memWrite a v s).free = s.free := rfl
@[simp] theorem memWrite_cfg (a : Addr) (v : Byte) (s : State) : (memWrite a v s).cfg = s.cfg := rfl

theorem memWrite_answered {s : State} (a : Addr) (v : Byte) (h : s.answered) : (memWrite a v s).answered :=
  (memWrite_stored a v s).answered h

end Sys2Proof.Machine
end

