-- ==== Sys2Proof/Laws/Operands.lean ====
section
/-! SUPPORT. The laws of the addressing-mode engine: what each operand form answers, that it completes, and which reads
it makes (40_addressing R141 to R150). -/

namespace Sys2Proof.Machine

open Sys2Proof

/-! ### Halves of addresses -/

@[simp] theorem lo8_cat (h l : Byte) : lo8 (cat h l) = l := by
  apply BitVec.eq_of_getLsbD_eq
  intro i hi
  simp only [lo8, cat, BitVec.getLsbD_append, BitVec.getLsbD_setWidth]
  simp [hi]

@[simp] theorem hi8_cat (h l : Byte) : hi8 (cat h l) = h := by
  apply BitVec.eq_of_getLsbD_eq
  intro i hi
  simp only [hi8, cat, BitVec.getLsbD_append, BitVec.getLsbD_setWidth, BitVec.getLsbD_ushiftRight]
  simp [hi]

theorem cat_eta (w : Addr) : cat (hi8 w) (lo8 w) = w := by
  apply BitVec.eq_of_getLsbD_eq
  intro i hi
  simp only [hi8, cat, lo8, BitVec.getLsbD_append, BitVec.getLsbD_setWidth, BitVec.getLsbD_ushiftRight]
  by_cases h : i < 8
  · simp [h]
  · have h2 : i - 8 < 8 := by omega
    have h3 : 8 + (i - 8) = i := by omega
    simp [h, h2, h3]

theorem cat_eq_iff (h l : Byte) (w : Addr) : cat h l = w ↔ h = hi8 w ∧ l = lo8 w := by
  constructor
  · rintro rfl; simp
  · rintro ⟨rfl, rfl⟩; exact cat_eta w

/-- The low byte of an indexed address is the sum of the low bytes, carried or not. -/
theorem lo8_add_zext (base : Addr) (i : Byte) : lo8 (base + zext16 i) = lo8 base + i := by
  apply BitVec.eq_of_toNat_eq
  simp [lo8, zext16]

/-- The uncarried address is the effective one exactly when the high byte does not change (40_addressing R142). -/
theorem uncarried_eq_iff (base : Addr) (i : Byte) :
    uncarried base i = base + zext16 i ↔ hi8 (base + zext16 i) = hi8 base := by
  rw [uncarried, cat_eq_iff, lo8_add_zext]
  exact ⟨fun h => h.1.symm, fun h => ⟨h.symm, rfl⟩⟩

/-! ### The parts of the modes -/

/-- A register update between reads does not change what later reads say. -/
theorem amImp_spec {s u : State} (h : amImp s = some u) : s.didRead [s.cpu.pc + 1] u := by
  simp only [amImp, Option.bind_eq_bind, Option.bind_eq_some_iff, Prod.exists, Option.some.injEq] at h
  obtain ⟨v, s1, h1, rfl⟩ := h
  exact (memRead_didRead h1).1

theorem amImp_complete {s : State} (h : s.answered) : ∃ u, amImp s = some u := by
  obtain ⟨v, u, hu⟩ := memRead_complete h (s.cpu.pc + 1)
  exact ⟨u, by simp only [amImp, hu, Option.bind_eq_bind, Option.bind_some]⟩

theorem operandWord_spec {s u : State} {w : Addr} (h : operandWord s = some (w, u)) :
    s.didRead [s.cpu.pc + 1, s.cpu.pc + 2] u ∧ (s.quiet → w = s.operand16) := by
  simp only [operandWord, Option.bind_eq_bind, Option.bind_eq_some_iff, Prod.exists, Option.some.injEq,
    Prod.mk.injEq] at h
  obtain ⟨lo, s1, h1, hi, s2, h2, rfl, rfl⟩ := h
  obtain ⟨d1, v1⟩ := memRead_didRead h1
  obtain ⟨d2, v2⟩ := memRead_didRead h2
  refine ⟨d1.trans d2, fun hq => ?_⟩
  rw [State.operand16, v1 hq, v2 (d1.1.quiet hq), d1.1.view_of_quiet hq]

theorem operandWord_complete {s : State} (h : s.answered) : ∃ w u, operandWord s = some (w, u) := by
  obtain ⟨lo, s1, h1⟩ := memRead_complete h (s.cpu.pc + 1)
  obtain ⟨hi, s2, h2⟩ := memRead_complete ((memRead_didRead h1).1.1.answered h) (s.cpu.pc + 2)
  exact ⟨cat hi lo, s2, by simp only [operandWord, h1, h2, Option.bind_eq_bind, Option.bind_some]⟩

theorem zeroPagePointer_spec {z : Byte} {s u : State} {w : Addr} (h : zeroPagePointer z s = some (w, u)) :
    s.didRead [zext16 z, zext16 (z + 1)] u ∧ (s.quiet → w = s.pointer z) := by
  simp only [zeroPagePointer, Option.bind_eq_bind, Option.bind_eq_some_iff, Prod.exists, Option.some.injEq,
    Prod.mk.injEq] at h
  obtain ⟨lo, s1, h1, hi, s2, h2, rfl, rfl⟩ := h
  obtain ⟨d1, v1⟩ := memRead_didRead h1
  obtain ⟨d2, v2⟩ := memRead_didRead h2
  refine ⟨d1.trans d2, fun hq => ?_⟩
  rw [State.pointer, v1 hq, v2 (d1.1.quiet hq), d1.1.view_of_quiet hq]

theorem zeroPagePointer_complete {s : State} (h : s.answered) (z : Byte) :
    ∃ w u, zeroPagePointer z s = some (w, u) := by
  obtain ⟨lo, s1, h1⟩ := memRead_complete h (zext16 z)
  obtain ⟨hi, s2, h2⟩ := memRead_complete ((memRead_didRead h1).1.1.answered h) (zext16 (z + 1))
  exact ⟨cat hi lo, s2, by simp only [zeroPagePointer, h1, h2, Option.bind_eq_bind, Option.bind_some]⟩

theorem indexed_spec {base : Addr} {i : Byte} {k : AccessKind} {s u : State} {ea : Addr}
    (h : indexed base i k s = some (ea, u)) : s.didRead (carryRead base i k) u ∧ ea = base + zext16 i := by
  simp only [indexed] at h
  split at h
  · rename_i hc
    obtain ⟨rfl, hc⟩ := hc
    simp only [Option.some.injEq, Prod.mk.injEq] at h
    obtain ⟨rfl, rfl⟩ := h
    rw [uncarried_eq_iff] at hc
    exact ⟨by simpa [carryRead, hc] using State.didRead.refl s, rfl⟩
  · rename_i hc
    simp only [Option.bind_eq_bind, Option.bind_eq_some_iff, Prod.exists, Option.some.injEq, Prod.mk.injEq] at h
    obtain ⟨v, s1, h1, rfl, rfl⟩ := h
    refine ⟨?_, rfl⟩
    have hr : carryRead base i k = [uncarried base i] := by
      cases k with
      | read =>
        have : ¬ hi8 (base + zext16 i) = hi8 base := fun e => hc ⟨rfl, (uncarried_eq_iff base i).mpr e⟩
        simp [carryRead, this, uncarried]
      | write => rfl
      | rmw => rfl
    rw [hr]
    exact (memRead_didRead h1).1

theorem indexed_complete {s : State} (h : s.answered) (base : Addr) (i : Byte) (k : AccessKind) :
    ∃ ea u, indexed base i k s = some (ea, u) := by
  simp only [indexed]
  split
  · exact ⟨_, _, rfl⟩
  · obtain ⟨v, u, hu⟩ := memRead_complete h (uncarried base i)
    exact ⟨base + zext16 i, u, by simp only [hu, Option.bind_eq_bind, Option.bind_some]⟩

theorem zeroPageIndexed_spec {i : Byte} {s u : State} {ea : Addr} (h : zeroPageIndexed i s = some (ea, u)) :
    s.onlyRead u ∧ (s.quiet → ea = zext16 (s.view (s.cpu.pc + 1) + i) ∧
      u.bus.log = s.readEntries [s.cpu.pc + 1, zext16 (s.view (s.cpu.pc + 1))] ++ s.bus.log) := by
  simp only [zeroPageIndexed, Option.bind_eq_bind, Option.bind_eq_some_iff, Prod.exists, Option.some.injEq,
    Prod.mk.injEq] at h
  obtain ⟨z, s1, h1, w, s2, h2, rfl, rfl⟩ := h
  obtain ⟨d1, v1⟩ := memRead_didRead h1
  obtain ⟨d2, -⟩ := memRead_didRead h2
  refine ⟨(d1.trans d2).1, fun hq => ?_⟩
  obtain rfl := v1 hq
  exact ⟨rfl, (d1.trans d2).2 hq⟩

theorem zeroPageIndexed_complete {s : State} (h : s.answered) (i : Byte) :
    ∃ ea u, zeroPageIndexed i s = some (ea, u) := by
  obtain ⟨z, s1, h1⟩ := memRead_complete h (s.cpu.pc + 1)
  obtain ⟨w, s2, h2⟩ := memRead_complete ((memRead_didRead h1).1.1.answered h) (zext16 z)
  exact ⟨zext16 (z + i), s2, by simp only [zeroPageIndexed, h1, h2, Option.bind_eq_bind, Option.bind_some]⟩

/-! ### Every mode -/

/-- Everything an addressing mode can do: only reads; in a quiet state its address and its reads are those of
30_encoding R113 and 40_addressing R144 to R150. -/
theorem effAddr_spec {m : AddrMode} {k : AccessKind} {s u : State} {ea : Addr} (h : effAddr m k s = some (ea, u)) :
    s.onlyRead u ∧ (s.quiet → ea = s.quietAddr m ∧ u.bus.log = s.readEntries (s.quietReads k m) ++ s.bus.log) := by
  cases m with
  | imm =>
    simp only [effAddr, Option.some.injEq, Prod.mk.injEq] at h
    obtain ⟨rfl, rfl⟩ := h
    exact ⟨.refl s, fun _ => ⟨rfl, rfl⟩⟩
  | zp =>
    simp only [effAddr, Option.bind_eq_bind, Option.bind_eq_some_iff, Prod.exists, Option.some.injEq,
      Prod.mk.injEq] at h
    obtain ⟨z, s1, h1, rfl, rfl⟩ := h
    obtain ⟨d1, v1⟩ := memRead_didRead h1
    refine ⟨d1.1, fun hq => ?_⟩
    obtain rfl := v1 hq
    exact ⟨rfl, d1.2 hq⟩
  | zpx => exact zeroPageIndexed_spec h
  | zpy => exact zeroPageIndexed_spec h
  | abs =>
    obtain ⟨d, v⟩ := operandWord_spec h
    exact ⟨d.1, fun hq => ⟨v hq, d.2 hq⟩⟩
  | abx =>
    simp only [effAddr, Option.bind_eq_bind, Option.bind_eq_some_iff, Prod.exists] at h
    obtain ⟨base, s1, h1, h2⟩ := h
    obtain ⟨d1, v1⟩ := operandWord_spec h1
    obtain ⟨d2, rfl⟩ := indexed_spec h2
    have d := d1.trans d2
    rw [d1.1.cpu] at *
    refine ⟨d.1, fun hq => ?_⟩
    obtain rfl := v1 hq
    exact ⟨rfl, d.2 hq⟩
  | aby =>
    simp only [effAddr, Option.bind_eq_bind, Option.bind_eq_some_iff, Prod.exists] at h
    obtain ⟨base, s1, h1, h2⟩ := h
    obtain ⟨d1, v1⟩ := operandWord_spec h1
    obtain ⟨d2, rfl⟩ := indexed_spec h2
    have d := d1.trans d2
    rw [d1.1.cpu] at *
    refine ⟨d.1, fun hq => ?_⟩
    obtain rfl := v1 hq
    exact ⟨rfl, d.2 hq⟩
  | izx =>
    simp only [effAddr, Option.bind_eq_bind, Option.bind_eq_some_iff, Prod.exists] at h
    obtain ⟨z, s1, h1, w, s2, h2, h3⟩ := h
    obtain ⟨d1, v1⟩ := memRead_didRead h1
    obtain ⟨d2, -⟩ := memRead_didRead h2
    obtain ⟨d3, v3⟩ := zeroPagePointer_spec h3
    have d12 := d1.trans d2
    have d := d12.trans d3
    rw [d12.1.cpu] at *
    refine ⟨d.1, fun hq => ?_⟩
    obtain rfl := v1 hq
    refine ⟨?_, d.2 hq⟩
    rw [v3 (d12.1.quiet hq)]
    simp only [State.quietAddr, State.pointer, d12.1.view_of_quiet hq]
  | izy =>
    simp only [effAddr, Option.bind_eq_bind, Option.bind_eq_some_iff, Prod.exists] at h
    obtain ⟨z, s1, h1, base, s2, h2, h3⟩ := h
    obtain ⟨d1, v1⟩ := memRead_didRead h1
    obtain ⟨d2, v2⟩ := zeroPagePointer_spec h2
    obtain ⟨d3, rfl⟩ := indexed_spec h3
    have d12 := d1.trans d2
    have d := d12.trans d3
    rw [d12.1.cpu] at *
    refine ⟨d.1, fun hq => ?_⟩
    obtain rfl := v1 hq
    have hb : base = s.pointer (s.view (s.cpu.pc + 1)) := by
      rw [v2 (d1.1.quiet hq)]
      simp only [State.pointer, d1.1.view_of_quiet hq]
    subst hb
    exact ⟨rfl, d.2 hq⟩

/-- Every addressing mode completes when the partner asserts READY in the end. -/
theorem effAddr_complete {s : State} (h : s.answered) (m : AddrMode) (k : AccessKind) :
    ∃ ea u, effAddr m k s = some (ea, u) := by
  cases m with
  | imm => exact ⟨_, _, rfl⟩
  | zp =>
    obtain ⟨z, s1, h1⟩ := memRead_complete h (s.cpu.pc + 1)
    exact ⟨zext16 z, s1, by simp only [effAddr, h1, Option.bind_eq_bind, Option.bind_some]⟩
  | zpx => exact zeroPageIndexed_complete h _
  | zpy => exact zeroPageIndexed_complete h _
  | abs => exact operandWord_complete h
  | abx =>
    obtain ⟨w, s1, h1⟩ := operandWord_complete h
    obtain ⟨ea, u, h2⟩ := indexed_complete ((operandWord_spec h1).1.1.answered h) w s1.cpu.x k
    exact ⟨ea, u, by simp only [effAddr, h1, h2, Option.bind_eq_bind, Option.bind_some]⟩
  | aby =>
    obtain ⟨w, s1, h1⟩ := operandWord_complete h
    obtain ⟨ea, u, h2⟩ := indexed_complete ((operandWord_spec h1).1.1.answered h) w s1.cpu.y k
    exact ⟨ea, u, by simp only [effAddr, h1, h2, Option.bind_eq_bind, Option.bind_some]⟩
  | izx =>
    obtain ⟨z, s1, h1⟩ := memRead_complete h (s.cpu.pc + 1)
    have a1 := (memRead_didRead h1).1.1.answered h
    obtain ⟨w, s2, h2⟩ := memRead_complete a1 (zext16 z)
    obtain ⟨ea, u, h3⟩ := zeroPagePointer_complete ((memRead_didRead h2).1.1.answered a1) (z + s2.cpu.x)
    exact ⟨ea, u, by simp only [effAddr, h1, h2, h3, Option.bind_eq_bind, Option.bind_some]⟩
  | izy =>
    obtain ⟨z, s1, h1⟩ := memRead_complete h (s.cpu.pc + 1)
    have a1 := (memRead_didRead h1).1.1.answered h
    obtain ⟨base, s2, h2⟩ := zeroPagePointer_complete a1 z
    obtain ⟨ea, u, h3⟩ := indexed_complete ((zeroPagePointer_spec h2).1.1.answered a1) base s2.cpu.y k
    exact ⟨ea, u, by simp only [effAddr, h1, h2, h3, Option.bind_eq_bind, Option.bind_some]⟩

/-! ### The three kinds of access -/

/-- `ReadOp` does what `State.operandRead` says. -/
theorem readOp_spec {m : AddrMode} {s u : State} {v : Byte} (h : readOp m s = some (v, u)) : s.operandRead m v u := by
  have h0 := h
  simp only [readOp, Option.bind_eq_bind, Option.bind_eq_some_iff, Prod.exists] at h
  obtain ⟨ea, s1, h1, h2⟩ := h
  obtain ⟨o1, q1⟩ := effAddr_spec h1
  obtain ⟨d2, v2⟩ := memRead_didRead h2
  refine ⟨h0, o1.trans d2.1, fun hq => ?_⟩
  obtain ⟨rfl, hl⟩ := q1 hq
  refine ⟨?_, ?_⟩
  · rw [v2 (o1.quiet hq), o1.view_of_quiet hq]
  · rw [d2.2 (o1.quiet hq), hl, o1.readEntries_of_quiet hq, State.readEntries_append, List.append_assoc]

/-- `ReadOp` completes when the partner asserts READY in the end. -/
theorem readOp_complete {s : State} (h : s.answered) (m : AddrMode) : ∃ v u, readOp m s = some (v, u) := by
  obtain ⟨ea, s1, h1⟩ := effAddr_complete h m .read
  obtain ⟨v, u, h2⟩ := memRead_complete ((effAddr_spec h1).1.answered h) ea
  exact ⟨v, u, by simp only [readOp, h1, h2, Option.bind_eq_bind, Option.bind_some]⟩

/-- `WriteOp` completes, and does what `State.operandWritten` says. -/
theorem writeOp_complete {s : State} (h : s.answered) (m : AddrMode) (v : Byte) :
    ∃ ea t, writeOp m v s = some t ∧ s.operandWritten m ea v t := by
  obtain ⟨ea, u, h1⟩ := effAddr_complete h m .write
  obtain ⟨o1, q1⟩ := effAddr_spec h1
  have hw : writeOp m v s = some (memWrite ea v u) := by
    simp only [writeOp, h1, Option.bind_eq_bind, Option.bind_some]
  have hst := memWrite_stored ea v u
  refine ⟨ea, _, hw, u, h1, hw, o1, hst, fun hq => ⟨(q1 hq).1, ?_⟩⟩
  rw [hst.log, (q1 hq).2, o1.writeEntry_of_quiet hq]
  rfl

/-- `RmwOp` completes, and does what `State.operandModified` says; the flags are those of `f` on the old byte. -/
theorem rmwOp_complete {s : State} (h : s.answered) (m : AddrMode) (f : ByteOp) :
    ∃ ea old t, s.operandModified m ea old (f old s.cpu.p).1 t ∧ t.cpu = s.cpu ∧
      rmwOp m f s = some ((f old s.cpu.p).1, t.setP (f old s.cpu.p).2) := by
  obtain ⟨ea, u1, h1⟩ := effAddr_complete h m .rmw
  obtain ⟨o1, q1⟩ := effAddr_spec h1
  obtain ⟨old, u2, h2⟩ := memRead_complete (o1.answered h) ea
  obtain ⟨d2, v2⟩ := memRead_didRead h2
  have o2 := o1.trans d2.1
  have hs3 := memWrite_stored ea old u2
  have hs4 := memWrite_stored ea (f old s.cpu.p).1 (memWrite ea old u2)
  refine ⟨ea, old, _, ⟨u1, u2, _, h1, h2, o2, hs3, hs4, fun hq => ?_⟩, by rw [hs4.cpu, hs3.cpu, o2.cpu], ?_⟩
  · obtain ⟨rfl, hl⟩ := q1 hq
    refine ⟨rfl, by rw [v2 (o1.quiet hq), o1.view_of_quiet hq], ?_⟩
    rw [hs4.log, hs3.log, hs3.writeEntry, o2.writeEntry_of_quiet hq, o2.writeEntry_of_quiet hq, d2.2 (o1.quiet hq), hl,
      o1.readEntries_of_quiet hq, State.readEntries_append]
    simp
  · simp only [rmwOp, h1, h2, Option.bind_eq_bind, Option.bind_some, memWrite_cpu, o2.cpu]
    rfl

end Sys2Proof.Machine
end

