-- ==== Sys2Proof/Laws/Effects.lean ====
section
/-! SUPPORT. Said once: everything an instruction or a hardware sequence can do to the machine (`Effects`), and that it
completes when the partner asserts READY in the end. Every invariant of `exec` follows from `exec_effects`. -/

namespace Sys2Proof.Machine

open Sys2Proof

/-- What instructions and hardware sequences are made of: reads, writes, new registers (bit 5 of `P` stays 1), free
values drawn. -/
inductive Effects : State → State → Prop where
  | refl (s : State) : Effects s s
  | reads {s t : State} (h : s.onlyRead t) : Effects s t
  | write (s : State) (a : Addr) (v : Byte) : Effects s (memWrite a v s)
  | regs {s t : State} (h : t = { s with cpu := t.cpu, free := t.free })
      (h5 : flagOf s.cpu.p .u = true → flagOf t.cpu.p .u = true) : Effects s t
  | trans {s t u : State} (h1 : Effects s t) (h2 : Effects t u) : Effects s u

namespace Effects

variable {s t : State} (h : Effects s t)
include h

theorem cfg : t.cfg = s.cfg := by
  induction h with
  | refl => rfl
  | reads h => exact h.cfg
  | write => rfl
  | regs h _ => rw [h]
  | trans _ _ i1 i2 => exact i2.trans i1

theorem sched : t.sched = s.sched := by
  induction h with
  | refl => rfl
  | reads h => exact h.sched
  | write => rfl
  | regs h _ => rw [h]
  | trans _ _ i1 i2 => exact i2.trans i1

theorem host : t.host = s.host := by
  induction h with
  | refl => rfl
  | reads h => exact h.host
  | write => rfl
  | regs h _ => rw [h]
  | trans _ _ i1 i2 => exact i2.trans i1

theorem polls : t.polls = s.polls := by
  induction h with
  | refl => rfl
  | reads h => exact h.polls
  | write => rfl
  | regs h _ => rw [h]
  | trans _ _ i1 i2 => exact i2.trans i1

theorem out : t.out = s.out := by
  induction h with
  | refl => rfl
  | reads h => exact h.out
  | write => rfl
  | regs h _ => rw [h]
  | trans _ _ i1 i2 => exact i2.trans i1

theorem lines : t.bus.partner.lines = s.bus.partner.lines := by
  induction h with
  | refl => rfl
  | reads h => exact h.lines
  | write s a v => rw [(memWrite_stored a v s).partner]
  | regs h _ => rw [h]
  | trans _ _ i1 i2 => exact i2.trans i1

theorem answered (ha : s.answered) : t.answered := by
  unfold State.answered; rw [h.lines]; exact ha

theorem inv (hi : s.inv) : t.inv := by
  induction h with
  | refl => exact hi
  | reads h => exact h.inv hi
  | write s a v => exact memWrite_inv a v hi
  | regs h h5 => rw [h]; exact ⟨hi.1, hi.2.1, h5 hi.2.2⟩
  | trans _ _ i1 i2 => exact i2 (i1 hi)

/-- No instruction and no sequence writes the ROM part of the shadow memory (20_memory R70). -/
theorem shadow_rom {a : Addr} (ha : s.cfg.romBase ≤ a) : t.bus.shadow.get a = s.bus.shadow.get a := by
  induction h with
  | refl => rfl
  | reads h => rw [h.shadow]
  | write s b v =>
    rw [(memWrite_stored b v s).shadow]
    split
    · rename_i h'; obtain ⟨rfl, h2⟩ := h'; exfalso; bv_omega
    · rfl
  | regs h _ => rw [h]
  | trans h1 _ i1 i2 => exact (i2 (by rw [h1.cfg]; exact ha)).trans (i1 ha)

/-- The access log only grows, and the level and the matcher change only when a bus read at `KEY_ADDR` is among the
new entries of a machine that has the matcher (20_memory R72). -/
theorem log : ∃ l, t.bus.log = l ++ s.bus.log ∧
    ((s.cfg.matcherEnabled = false ∨ l.any (Access.isBusReadAt s.cfg.keyAddr) = false) →
      t.bus.accel = s.bus.accel ∧ t.bus.matcher = s.bus.matcher) := by
  induction h with
  | refl => exact ⟨[], rfl, fun _ => ⟨rfl, rfl⟩⟩
  | reads h =>
    obtain ⟨-, -, -, -, -, l, hl, -, hk⟩ := h
    exact ⟨l, hl, hk⟩
  | write s a v =>
    have hs := memWrite_stored a v s
    exact ⟨[s.writeEntry a v], hs.log, fun _ => ⟨hs.accel, hs.matcher⟩⟩
  | regs h _ => rw [h]; exact ⟨[], rfl, fun _ => ⟨rfl, rfl⟩⟩
  | trans h1 _ i1 i2 =>
    obtain ⟨l1, e1, k1⟩ := i1
    obtain ⟨l2, e2, k2⟩ := i2
    refine ⟨l2 ++ l1, by rw [e2, e1, List.append_assoc], fun hk => ?_⟩
    rw [h1.cfg] at k2
    have hk1 := k1 (hk.imp_right fun h => by rw [List.any_append, Bool.or_eq_false_iff] at h; exact h.2)
    have hk2 := k2 (hk.imp_right fun h => by rw [List.any_append, Bool.or_eq_false_iff] at h; exact h.1)
    exact ⟨hk2.1.trans hk1.1, hk2.2.trans hk1.2⟩

/-- No instruction and no sequence fetches an opcode: that is a point of the main loop (60_exceptions R440). -/
theorem noFetch : ∃ l, t.bus.log = l ++ s.bus.log ∧ l.filter Access.isFetch = [] := by
  induction h with
  | refl => exact ⟨[], rfl, rfl⟩
  | reads h => exact h.noFetch
  | write s a v => exact ⟨[s.writeEntry a v], (memWrite_stored a v s).log, rfl⟩
  | regs h _ => rw [h]; exact ⟨[], rfl, rfl⟩
  | trans _ _ i1 i2 =>
    obtain ⟨l1, e1, k1⟩ := i1
    obtain ⟨l2, e2, k2⟩ := i2
    exact ⟨l2 ++ l1, by rw [e2, e1, List.append_assoc], by rw [List.filter_append, k1, k2]; rfl⟩

end Effects

/-! ### Operations that complete and have only such effects -/

/-- From `s` the operation completes when the partner answers, and what it ends in is reached by `Effects`. -/
def GoodAt (s : State) (r : Option State) : Prop :=
  (s.answered → ∃ t, r = some t) ∧ ∀ t, r = some t → Effects s t

/-- The same for an operation that also yields a value. -/
def GoodAtV {α : Type} (s : State) (r : Option (α × State)) : Prop :=
  (s.answered → ∃ v t, r = some (v, t)) ∧ ∀ v t, r = some (v, t) → Effects s t

theorem goodAt_some {s t : State} (h : Effects s t) : GoodAt s (some t) :=
  ⟨fun _ => ⟨t, rfl⟩, fun _ e => by rw [← Option.some.inj e]; exact h⟩

theorem goodAtV_some {α : Type} {s t : State} {v : α} (h : Effects s t) : GoodAtV s (some (v, t)) :=
  ⟨fun _ => ⟨v, t, rfl⟩, fun _ _ e => by rw [← (Prod.mk.inj (Option.some.inj e)).2]; exact h⟩

theorem goodAt_bind {α : Type} {s : State} {r : Option (α × State)} {g : α × State → Option State}
    (hr : GoodAtV s r) (hg : ∀ v t, r = some (v, t) → GoodAt t (g (v, t))) : GoodAt s (r >>= g) := by
  constructor
  · intro ha
    obtain ⟨v, t, e⟩ := hr.1 ha
    obtain ⟨u, hu⟩ := (hg v t e).1 ((hr.2 v t e).answered ha)
    exact ⟨u, by rw [e]; exact hu⟩
  · intro u hu
    rw [Option.bind_eq_bind, Option.bind_eq_some_iff] at hu
    obtain ⟨⟨v, t⟩, e, h2⟩ := hu
    exact (hr.2 v t e).trans ((hg v t e).2 u h2)

theorem goodAt_bind' {s : State} {r : Option State} {g : State → Option State}
    (hr : GoodAt s r) (hg : ∀ t, r = some t → GoodAt t (g t)) : GoodAt s (r >>= g) := by
  constructor
  · intro ha
    obtain ⟨t, e⟩ := hr.1 ha
    obtain ⟨u, hu⟩ := (hg t e).1 ((hr.2 t e).answered ha)
    exact ⟨u, by rw [e]; exact hu⟩
  · intro u hu
    rw [Option.bind_eq_bind, Option.bind_eq_some_iff] at hu
    obtain ⟨t, e, h2⟩ := hu
    exact (hr.2 t e).trans ((hg t e).2 u h2)

theorem goodAtV_bind {α β : Type} {s : State} {r : Option (α × State)} {g : α × State → Option (β × State)}
    (hr : GoodAtV s r) (hg : ∀ v t, r = some (v, t) → GoodAtV t (g (v, t))) : GoodAtV s (r >>= g) := by
  constructor
  · intro ha
    obtain ⟨v, t, e⟩ := hr.1 ha
    obtain ⟨w, u, hu⟩ := (hg v t e).1 ((hr.2 v t e).answered ha)
    exact ⟨w, u, by rw [e]; exact hu⟩
  · intro w u hu
    rw [Option.bind_eq_bind, Option.bind_eq_some_iff] at hu
    obtain ⟨⟨v, t⟩, e, h2⟩ := hu
    exact (hr.2 v t e).trans ((hg v t e).2 w u h2)

/-- New registers that keep bit 5 of `P`, seen from a state reached before. -/
theorem goodAt_regs {s t : State} (h : t = { s with cpu := t.cpu, free := t.free })
    (h5 : flagOf s.cpu.p .u = true → flagOf t.cpu.p .u = true) : GoodAt s (some t) :=
  goodAt_some (.regs h h5)

/-- An operation that starts with new registers. -/
theorem GoodAtV.after {α : Type} {s t : State} {r : Option (α × State)} (h : Effects s t) (hr : GoodAtV t r) :
    GoodAtV s r :=
  ⟨fun ha => hr.1 (h.answered ha), fun v u e => h.trans (hr.2 v u e)⟩

theorem GoodAt.after {s t : State} {r : Option State} (h : Effects s t) (hr : GoodAt t r) : GoodAt s r :=
  ⟨fun ha => hr.1 (h.answered ha), fun u e => h.trans (hr.2 u e)⟩

theorem memRead_good (a : Addr) (s : State) : GoodAtV s (memRead a s) :=
  ⟨fun ha => memRead_complete ha a, fun _ _ e => .reads (memRead_didRead e).1.1⟩

theorem amImp_good (s : State) : GoodAt s (amImp s) :=
  goodAt_bind (memRead_good _ s) fun _ t _ => goodAt_some (.refl t)

theorem operandWord_good (s : State) : GoodAtV s (operandWord s) :=
  goodAtV_bind (memRead_good _ s) fun _ t _ => goodAtV_bind (memRead_good _ t) fun _ u _ => goodAtV_some (.refl u)

theorem readWord_good (a : Addr) (s : State) : GoodAtV s (readWord a s) :=
  goodAtV_bind (memRead_good _ s) fun _ t _ => goodAtV_bind (memRead_good _ t) fun _ u _ => goodAtV_some (.refl u)

theorem zeroPagePointer_good (z : Byte) (s : State) : GoodAtV s (zeroPagePointer z s) :=
  goodAtV_bind (memRead_good _ s) fun _ t _ => goodAtV_bind (memRead_good _ t) fun _ u _ => goodAtV_some (.refl u)

theorem zeroPageIndexed_good (i : Byte) (s : State) : GoodAtV s (zeroPageIndexed i s) :=
  goodAtV_bind (memRead_good _ s) fun _ t _ => goodAtV_bind (memRead_good _ t) fun _ u _ => goodAtV_some (.refl u)

theorem indexed_good (base : Addr) (i : Byte) (k : AccessKind) (s : State) : GoodAtV s (indexed base i k s) := by
  simp only [indexed]
  split
  · exact goodAtV_some (.refl s)
  · exact goodAtV_bind (memRead_good _ s) fun _ t _ => goodAtV_some (.refl t)

theorem effAddr_good (m : AddrMode) (k : AccessKind) (s : State) : GoodAtV s (effAddr m k s) := by
  cases m with
  | imm => exact goodAtV_some (.refl s)
  | zp => exact goodAtV_bind (memRead_good _ s) fun _ t _ => goodAtV_some (.refl t)
  | zpx => exact zeroPageIndexed_good _ s
  | zpy => exact zeroPageIndexed_good _ s
  | abs => exact operandWord_good s
  | abx => exact goodAtV_bind (operandWord_good s) fun _ t _ => indexed_good _ _ _ t
  | aby => exact goodAtV_bind (operandWord_good s) fun _ t _ => indexed_good _ _ _ t
  | izx =>
    exact goodAtV_bind (memRead_good _ s) fun _ t _ => goodAtV_bind (memRead_good _ t) fun _ u _ =>
      zeroPagePointer_good _ u
  | izy =>
    exact goodAtV_bind (memRead_good _ s) fun _ t _ => goodAtV_bind (zeroPagePointer_good _ t) fun _ u _ =>
      indexed_good _ _ _ u

theorem readOp_good (m : AddrMode) (s : State) : GoodAtV s (readOp m s) :=
  goodAtV_bind (effAddr_good m .read s) fun _ t _ => memRead_good _ t

theorem writeOp_good (m : AddrMode) (v : Byte) (s : State) : GoodAt s (writeOp m v s) :=
  goodAt_bind (effAddr_good m .write s) fun _ t _ => goodAt_some (.write t _ _)

theorem rmwOp_good {f : ByteOp} (hf : f.keepsBit5) (m : AddrMode) (s : State) : GoodAtV s (rmwOp m f s) :=
  goodAtV_bind (effAddr_good m .rmw s) fun ea t _ => goodAtV_bind (memRead_good _ t) fun old u _ =>
    goodAtV_some <| by
      refine .trans (.write u ea old) (.trans (.regs (t := (memWrite ea old u).setP (f old u.cpu.p).2) rfl ?_)
        (.write _ _ _))
      intro h
      exact (hf old u.cpu.p).trans h

/-- Moving the stack pointer. -/
theorem effects_setSp (s : State) (v : Byte) : Effects s (s.setSp v) := .regs rfl id

theorem effects_setPc (s : State) (v : Addr) : Effects s (s.setPc v) := .regs rfl id

theorem effects_advance (s : State) (n : Addr) : Effects s (s.advance n) := .regs rfl id

theorem effects_push (v : Byte) (s : State) : Effects s (push v s) := .trans (.write s _ v) (effects_setSp _ _)

theorem effects_pushWord (w : Addr) (s : State) : Effects s (pushWord w s) :=
  .trans (effects_push _ s) (effects_push _ _)

theorem effects_setFlag {f : Flag} (hf : f ≠ .u) (on : Bool) (s : State) : Effects s (s.setFlag f on) :=
  .regs rfl fun h => by cases f <;> simp_all

theorem pull_good (s : State) : GoodAtV s (pull s) := .after (effects_setSp s _) (memRead_good _ _)

theorem pullWord_good (s : State) : GoodAtV s (pullWord s) :=
  goodAtV_bind (pull_good s) fun _ t _ => goodAtV_bind (pull_good t) fun _ u _ => goodAtV_some (.refl u)

theorem takeException_good (ret : Addr) (brk : Bool) (vec : Addr) (s : State) :
    GoodAt s (takeException ret brk vec s) :=
  .after (.trans (effects_setFlag (by decide) brk s) (.trans (effects_pushWord ret _) (effects_push _ _)))
    (goodAt_bind (readWord_good _ _) fun v t _ =>
      goodAt_some (.trans (effects_setPc t v) (effects_setFlag (by decide) true _)))

theorem returnFromException_good (s : State) : GoodAt s (returnFromException s) :=
  goodAt_bind (pull_good s) fun v t _ =>
    .after (.regs (t := t.setP (flagsFrom v)) rfl fun _ => flagsFrom_bit5 v)
      (goodAt_bind (pullWord_good _) fun _ u _ => goodAt_some (effects_setPc u _))

/-! ### The meanings -/

theorem lda_good (m : AddrMode) (s : State) : GoodAt s (lda m s) :=
  goodAt_bind (readOp_good m s) fun _ _ _ => goodAt_some (.regs rfl fun h => by simpa using h)

theorem ldx_good (m : AddrMode) (s : State) : GoodAt s (ldx m s) :=
  goodAt_bind (readOp_good m s) fun _ _ _ => goodAt_some (.regs rfl fun h => by simpa using h)

theorem ldy_good (m : AddrMode) (s : State) : GoodAt s (ldy m s) :=
  goodAt_bind (readOp_good m s) fun _ _ _ => goodAt_some (.regs rfl fun h => by simpa using h)

theorem ora_good (m : AddrMode) (s : State) : GoodAt s (ora m s) :=
  goodAt_bind (readOp_good m s) fun _ _ _ => goodAt_some (.regs rfl fun h => by simpa using h)

theorem andA_good (m : AddrMode) (s : State) : GoodAt s (andA m s) :=
  goodAt_bind (readOp_good m s) fun _ _ _ => goodAt_some (.regs rfl fun h => by simpa using h)

theorem eor_good (m : AddrMode) (s : State) : GoodAt s (eor m s) :=
  goodAt_bind (readOp_good m s) fun _ _ _ => goodAt_some (.regs rfl fun h => by simpa using h)

theorem adc_good (m : AddrMode) (s : State) : GoodAt s (adc m s) :=
  goodAt_bind (readOp_good m s) fun _ _ _ => goodAt_some (.regs rfl fun h => by simpa using h)

theorem sbc_good (m : AddrMode) (s : State) : GoodAt s (sbc m s) :=
  goodAt_bind (readOp_good m s) fun _ _ _ => goodAt_some (.regs rfl fun h => by simpa using h)

theorem cmpA_good (m : AddrMode) (s : State) : GoodAt s (cmpA m s) :=
  goodAt_bind (readOp_good m s) fun _ _ _ => goodAt_some (.regs rfl fun h => by simpa using h)

theorem cpx_good (m : AddrMode) (s : State) : GoodAt s (cpx m s) :=
  goodAt_bind (readOp_good m s) fun _ _ _ => goodAt_some (.regs rfl fun h => by simpa using h)

theorem cpy_good (m : AddrMode) (s : State) : GoodAt s (cpy m s) :=
  goodAt_bind (readOp_good m s) fun _ _ _ => goodAt_some (.regs rfl fun h => by simpa using h)

theorem bitTest_good (m : AddrMode) (s : State) : GoodAt s (bitTest m s) :=
  goodAt_bind (readOp_good m s) fun _ _ _ => goodAt_some (.regs rfl fun h => by simpa using h)

theorem lax_good (m : AddrMode) (s : State) : GoodAt s (lax m s) :=
  goodAt_bind (readOp_good m s) fun _ _ _ => goodAt_some (.regs rfl fun h => by simpa using h)

theorem nopRead_good (m : AddrMode) (s : State) : GoodAt s (nopRead m s) :=
  goodAt_bind (readOp_good m s) fun _ _ _ => goodAt_some (.regs rfl fun h => by simpa using h)

theorem sta_good (m : AddrMode) (s : State) : GoodAt s (sta m s) :=
  goodAt_bind' (writeOp_good m _ s) fun t _ => goodAt_some (effects_advance t _)

theorem stx_good (m : AddrMode) (s : State) : GoodAt s (stx m s) :=
  goodAt_bind' (writeOp_good m _ s) fun t _ => goodAt_some (effects_advance t _)

theorem sty_good (m : AddrMode) (s : State) : GoodAt s (sty m s) :=
  goodAt_bind' (writeOp_good m _ s) fun t _ => goodAt_some (effects_advance t _)

theorem sax_good (m : AddrMode) (s : State) : GoodAt s (sax m s) :=
  goodAt_bind' (writeOp_good m _ s) fun t _ => goodAt_some (effects_advance t _)

theorem tax_good (s : State) : GoodAt s (tax s) :=
  goodAt_bind' (amImp_good s) fun _ _ => goodAt_some (.regs rfl fun h => by simpa using h)

theorem tay_good (s : State) : GoodAt s (tay s) :=
  goodAt_bind' (amImp_good s) fun _ _ => goodAt_some (.regs rfl fun h => by simpa using h)

theorem txa_good (s : State) : GoodAt s (txa s) :=
  goodAt_bind' (amImp_good s) fun _ _ => goodAt_some (.regs rfl fun h => by simpa using h)

theorem tya_good (s : State) : GoodAt s (tya s) :=
  goodAt_bind' (amImp_good s) fun _ _ => goodAt_some (.regs rfl fun h => by simpa using h)

theorem tsx_good (s : State) : GoodAt s (tsx s) :=
  goodAt_bind' (amImp_good s) fun _ _ => goodAt_some (.regs rfl fun h => by simpa using h)

theorem txs_good (s : State) : GoodAt s (txs s) :=
  goodAt_bind' (amImp_good s) fun _ _ => goodAt_some (.regs rfl fun h => by simpa using h)

theorem nopImplied_good (s : State) : GoodAt s (nopImplied s) :=
  goodAt_bind' (amImp_good s) fun _ _ => goodAt_some (.regs rfl fun h => by simpa using h)

theorem inx_good (s : State) : GoodAt s (inx s) :=
  goodAt_bind' (amImp_good s) fun _ _ => goodAt_some (.regs rfl fun h => (incOp_bit5 _ _).trans h)

theorem iny_good (s : State) : GoodAt s (iny s) :=
  goodAt_bind' (amImp_good s) fun _ _ => goodAt_some (.regs rfl fun h => (incOp_bit5 _ _).trans h)

theorem dex_good (s : State) : GoodAt s (dex s) :=
  goodAt_bind' (amImp_good s) fun _ _ => goodAt_some (.regs rfl fun h => (decOp_bit5 _ _).trans h)

theorem dey_good (s : State) : GoodAt s (dey s) :=
  goodAt_bind' (amImp_good s) fun _ _ => goodAt_some (.regs rfl fun h => (decOp_bit5 _ _).trans h)

theorem shiftAcc_good {f : ByteOp} (hf : f.keepsBit5) (s : State) : GoodAt s (shiftAcc f s) :=
  goodAt_bind' (amImp_good s) fun _ _ => goodAt_some (.regs rfl fun h => (hf _ _).trans h)

theorem modifyMem_good {f : ByteOp} (hf : f.keepsBit5) (m : AddrMode) (s : State) : GoodAt s (modifyMem m f s) :=
  goodAt_bind (rmwOp_good hf m s) fun _ t _ => goodAt_some (effects_advance t _)

theorem slo_good (m : AddrMode) (s : State) : GoodAt s (slo m s) :=
  goodAt_bind (rmwOp_good aslOp_bit5 m s) fun _ _ _ => goodAt_some (.regs rfl fun h => by simpa using h)

theorem rla_good (m : AddrMode) (s : State) : GoodAt s (rla m s) :=
  goodAt_bind (rmwOp_good rolOp_bit5 m s) fun _ _ _ => goodAt_some (.regs rfl fun h => by simpa using h)

theorem sre_good (m : AddrMode) (s : State) : GoodAt s (sre m s) :=
  goodAt_bind (rmwOp_good lsrOp_bit5 m s) fun _ _ _ => goodAt_some (.regs rfl fun h => by simpa using h)

theorem rra_good (m : AddrMode) (s : State) : GoodAt s (rra m s) :=
  goodAt_bind (rmwOp_good rorOp_bit5 m s) fun _ _ _ => goodAt_some (.regs rfl fun h => by simpa using h)

theorem dcp_good (m : AddrMode) (s : State) : GoodAt s (dcp m s) :=
  goodAt_bind (rmwOp_good decSilent_bit5 m s) fun _ _ _ => goodAt_some (.regs rfl fun h => by simpa using h)

theorem isc_good (m : AddrMode) (s : State) : GoodAt s (isc m s) :=
  goodAt_bind (rmwOp_good incSilent_bit5 m s) fun _ _ _ => goodAt_some (.regs rfl fun h => by simpa using h)

theorem anc_good (s : State) : GoodAt s (anc s) :=
  goodAt_bind (readOp_good _ s) fun _ _ _ => goodAt_some (.regs rfl fun h => (ancOp_bit5 _ _ _).trans h)

theorem alr_good (s : State) : GoodAt s (alr s) :=
  goodAt_bind (readOp_good _ s) fun _ _ _ => goodAt_some (.regs rfl fun h => (lsrOp_bit5 _ _).trans h)

theorem sbx_good (s : State) : GoodAt s (sbx s) :=
  goodAt_bind (readOp_good _ s) fun _ _ _ => goodAt_some (.regs rfl fun h => (sbxOp_bit5 _ _ _ _).trans h)

theorem las_good (s : State) : GoodAt s (las s) :=
  goodAt_bind (readOp_good _ s) fun _ _ _ => goodAt_some (.regs rfl fun h => by simpa using h)

theorem arr_good (s : State) : GoodAt s (arr s) :=
  goodAt_bind (readOp_good _ s) fun v t _ => by
    dsimp only
    split
    · exact goodAt_some (.regs rfl fun h => by simpa [arrUnspecified] using h)
    · exact goodAt_some (.regs rfl fun h => (arrOp_bit5 _ _ _).trans h)

theorem unstableNop2_good (s : State) : GoodAt s (unstableNop2 s) :=
  goodAt_bind (memRead_good _ s) fun _ t _ => goodAt_some (effects_advance t _)

theorem unstableNop3_good (s : State) : GoodAt s (unstableNop3 s) :=
  goodAt_bind (operandWord_good s) fun _ t _ => goodAt_some (effects_advance t _)

theorem lxa_good (s : State) : GoodAt s (lxa s) := by
  unfold lxa
  split
  · exact unstableNop2_good s
  · exact lax_good _ s

theorem branch_good (c : Bool) (s : State) : GoodAt s (branch c s) :=
  goodAt_bind (memRead_good _ s) fun d t _ => by
    dsimp only
    split
    · refine goodAt_bind (memRead_good _ t) fun _ u _ => ?_
      dsimp only
      split
      · exact goodAt_some (effects_setPc u _)
      · exact goodAt_bind (memRead_good _ u) fun _ w _ => goodAt_some (effects_setPc w _)
    · exact goodAt_some (effects_setPc t _)

theorem jmp_good (s : State) : GoodAt s (jmp s) :=
  goodAt_bind (operandWord_good s) fun _ t _ => goodAt_some (effects_setPc t _)

theorem jmpIndirect_good (s : State) : GoodAt s (jmpIndirect s) :=
  goodAt_bind (operandWord_good s) fun _ t _ => goodAt_bind (memRead_good _ t) fun _ u _ =>
    goodAt_bind (memRead_good _ u) fun _ w _ => goodAt_some (effects_setPc w _)

theorem jsr_good (s : State) : GoodAt s (jsr s) :=
  goodAt_bind (memRead_good _ s) fun _ t _ => goodAt_bind (memRead_good _ t) fun _ u _ =>
    .after (effects_pushWord _ u) (goodAt_bind (memRead_good _ _) fun _ w _ => goodAt_some (effects_setPc w _))

theorem rts_good (s : State) : GoodAt s (rts s) :=
  goodAt_bind' (amImp_good s) fun t _ => goodAt_bind (memRead_good _ t) fun _ u _ =>
    goodAt_bind (pullWord_good u) fun _ w _ => goodAt_bind (memRead_good _ w) fun _ x _ =>
      goodAt_some (effects_setPc x _)

theorem pha_good (s : State) : GoodAt s (pha s) :=
  goodAt_bind' (amImp_good s) fun t _ => goodAt_some (.trans (effects_push _ t) (effects_advance _ _))

theorem php_good (s : State) : GoodAt s (php s) :=
  goodAt_bind' (amImp_good s) fun t _ => goodAt_some (.trans (effects_push _ t) (effects_advance _ _))

theorem pla_good (s : State) : GoodAt s (pla s) :=
  goodAt_bind' (amImp_good s) fun t _ => goodAt_bind (memRead_good _ t) fun _ u _ =>
    goodAt_bind (pull_good u) fun _ _ _ => goodAt_some (.regs rfl fun h => by simpa using h)

theorem plp_good (s : State) : GoodAt s (plp s) :=
  goodAt_bind' (amImp_good s) fun t _ => goodAt_bind (memRead_good _ t) fun _ u _ =>
    goodAt_bind (pull_good u) fun v _ _ => goodAt_some (.regs rfl fun _ => flagsFrom_bit5 v)

theorem writeFlag_good {f : Flag} (hf : f ≠ .u) (on : Bool) (s : State) : GoodAt s (writeFlag f on s) :=
  goodAt_bind' (amImp_good s) fun t _ => goodAt_some (.trans (effects_setFlag hf on t) (effects_advance _ _))

theorem brk_good (s : State) : GoodAt s (brk s) :=
  goodAt_bind' (amImp_good s) fun t _ => takeException_good _ _ _ t

theorem rti_good (s : State) : GoodAt s (rti s) :=
  goodAt_bind' (amImp_good s) fun t _ => goodAt_bind (memRead_good _ t) fun _ u _ => returnFromException_good u

/-- EVERYTHING AN INSTRUCTION CAN DO: a JAM halts the engine and does nothing else (46_illegal R372); every other
instruction is an operation that completes when the partner answers and has only `Effects`. -/
theorem exec_effects (i : Instr) (s : State) :
    (isJam i = true ∧ exec i s = .next (s.setSched { s.sched with halted := true })) ∨
      (isJam i = false ∧ ∃ r, GoodAt s r ∧ exec i s = complete r) := by
  cases i with
  | brk => exact .inr ⟨rfl, _, brk_good s, rfl⟩
  | oraIzx => exact .inr ⟨rfl, _, ora_good .izx s, rfl⟩
  | jam02 => exact .inl ⟨rfl, rfl⟩
  | sloIzx => exact .inr ⟨rfl, _, slo_good .izx s, rfl⟩
  | nop04 => exact .inr ⟨rfl, _, nopRead_good .zp s, rfl⟩
  | oraZp => exact .inr ⟨rfl, _, ora_good .zp s, rfl⟩
  | aslZp => exact .inr ⟨rfl, _, modifyMem_good aslOp_bit5 .zp s, rfl⟩
  | sloZp => exact .inr ⟨rfl, _, slo_good .zp s, rfl⟩
  | php => exact .inr ⟨rfl, _, php_good s, rfl⟩
  | oraImm => exact .inr ⟨rfl, _, ora_good .imm s, rfl⟩
  | aslAcc => exact .inr ⟨rfl, _, shiftAcc_good aslOp_bit5 s, rfl⟩
  | anc0B => exact .inr ⟨rfl, _, anc_good s, rfl⟩
  | nop0C => exact .inr ⟨rfl, _, nopRead_good .abs s, rfl⟩
  | oraAbs => exact .inr ⟨rfl, _, ora_good .abs s, rfl⟩
  | aslAbs => exact .inr ⟨rfl, _, modifyMem_good aslOp_bit5 .abs s, rfl⟩
  | sloAbs => exact .inr ⟨rfl, _, slo_good .abs s, rfl⟩
  | bpl => exact .inr ⟨rfl, _, branch_good _ s, rfl⟩
  | oraIzy => exact .inr ⟨rfl, _, ora_good .izy s, rfl⟩
  | jam12 => exact .inl ⟨rfl, rfl⟩
  | sloIzy => exact .inr ⟨rfl, _, slo_good .izy s, rfl⟩
  | nop14 => exact .inr ⟨rfl, _, nopRead_good .zpx s, rfl⟩
  | oraZpx => exact .inr ⟨rfl, _, ora_good .zpx s, rfl⟩
  | aslZpx => exact .inr ⟨rfl, _, modifyMem_good aslOp_bit5 .zpx s, rfl⟩
  | sloZpx => exact .inr ⟨rfl, _, slo_good .zpx s, rfl⟩
  | clc => exact .inr ⟨rfl, _, writeFlag_good (by decide) _ s, rfl⟩
  | oraAby => exact .inr ⟨rfl, _, ora_good .aby s, rfl⟩
  | nop1A => exact .inr ⟨rfl, _, nopImplied_good s, rfl⟩
  | sloAby => exact .inr ⟨rfl, _, slo_good .aby s, rfl⟩
  | nop1C => exact .inr ⟨rfl, _, nopRead_good .abx s, rfl⟩
  | oraAbx => exact .inr ⟨rfl, _, ora_good .abx s, rfl⟩
  | aslAbx => exact .inr ⟨rfl, _, modifyMem_good aslOp_bit5 .abx s, rfl⟩
  | sloAbx => exact .inr ⟨rfl, _, slo_good .abx s, rfl⟩
  | jsr => exact .inr ⟨rfl, _, jsr_good s, rfl⟩
  | andIzx => exact .inr ⟨rfl, _, andA_good .izx s, rfl⟩
  | jam22 => exact .inl ⟨rfl, rfl⟩
  | rlaIzx => exact .inr ⟨rfl, _, rla_good .izx s, rfl⟩
  | bitZp => exact .inr ⟨rfl, _, bitTest_good .zp s, rfl⟩
  | andZp => exact .inr ⟨rfl, _, andA_good .zp s, rfl⟩
  | rolZp => exact .inr ⟨rfl, _, modifyMem_good rolOp_bit5 .zp s, rfl⟩
  | rlaZp => exact .inr ⟨rfl, _, rla_good .zp s, rfl⟩
  | plp => exact .inr ⟨rfl, _, plp_good s, rfl⟩
  | andImm => exact .inr ⟨rfl, _, andA_good .imm s, rfl⟩
  | rolAcc => exact .inr ⟨rfl, _, shiftAcc_good rolOp_bit5 s, rfl⟩
  | anc2B => exact .inr ⟨rfl, _, anc_good s, rfl⟩
  | bitAbs => exact .inr ⟨rfl, _, bitTest_good .abs s, rfl⟩
  | andAbs => exact .inr ⟨rfl, _, andA_good .abs s, rfl⟩
  | rolAbs => exact .inr ⟨rfl, _, modifyMem_good rolOp_bit5 .abs s, rfl⟩
  | rlaAbs => exact .inr ⟨rfl, _, rla_good .abs s, rfl⟩
  | bmi => exact .inr ⟨rfl, _, branch_good _ s, rfl⟩
  | andIzy => exact .inr ⟨rfl, _, andA_good .izy s, rfl⟩
  | jam32 => exact .inl ⟨rfl, rfl⟩
  | rlaIzy => exact .inr ⟨rfl, _, rla_good .izy s, rfl⟩
  | nop34 => exact .inr ⟨rfl, _, nopRead_good .zpx s, rfl⟩
  | andZpx => exact .inr ⟨rfl, _, andA_good .zpx s, rfl⟩
  | rolZpx => exact .inr ⟨rfl, _, modifyMem_good rolOp_bit5 .zpx s, rfl⟩
  | rlaZpx => exact .inr ⟨rfl, _, rla_good .zpx s, rfl⟩
  | sec => exact .inr ⟨rfl, _, writeFlag_good (by decide) _ s, rfl⟩
  | andAby => exact .inr ⟨rfl, _, andA_good .aby s, rfl⟩
  | nop3A => exact .inr ⟨rfl, _, nopImplied_good s, rfl⟩
  | rlaAby => exact .inr ⟨rfl, _, rla_good .aby s, rfl⟩
  | nop3C => exact .inr ⟨rfl, _, nopRead_good .abx s, rfl⟩
  | andAbx => exact .inr ⟨rfl, _, andA_good .abx s, rfl⟩
  | rolAbx => exact .inr ⟨rfl, _, modifyMem_good rolOp_bit5 .abx s, rfl⟩
  | rlaAbx => exact .inr ⟨rfl, _, rla_good .abx s, rfl⟩
  | rti => exact .inr ⟨rfl, _, rti_good s, rfl⟩
  | eorIzx => exact .inr ⟨rfl, _, eor_good .izx s, rfl⟩
  | jam42 => exact .inl ⟨rfl, rfl⟩
  | sreIzx => exact .inr ⟨rfl, _, sre_good .izx s, rfl⟩
  | nop44 => exact .inr ⟨rfl, _, nopRead_good .zp s, rfl⟩
  | eorZp => exact .inr ⟨rfl, _, eor_good .zp s, rfl⟩
  | lsrZp => exact .inr ⟨rfl, _, modifyMem_good lsrOp_bit5 .zp s, rfl⟩
  | sreZp => exact .inr ⟨rfl, _, sre_good .zp s, rfl⟩
  | pha => exact .inr ⟨rfl, _, pha_good s, rfl⟩
  | eorImm => exact .inr ⟨rfl, _, eor_good .imm s, rfl⟩
  | lsrAcc => exact .inr ⟨rfl, _, shiftAcc_good lsrOp_bit5 s, rfl⟩
  | alrImm => exact .inr ⟨rfl, _, alr_good s, rfl⟩
  | jmpAbs => exact .inr ⟨rfl, _, jmp_good s, rfl⟩
  | eorAbs => exact .inr ⟨rfl, _, eor_good .abs s, rfl⟩
  | lsrAbs => exact .inr ⟨rfl, _, modifyMem_good lsrOp_bit5 .abs s, rfl⟩
  | sreAbs => exact .inr ⟨rfl, _, sre_good .abs s, rfl⟩
  | bvc => exact .inr ⟨rfl, _, branch_good _ s, rfl⟩
  | eorIzy => exact .inr ⟨rfl, _, eor_good .izy s, rfl⟩
  | jam52 => exact .inl ⟨rfl, rfl⟩
  | sreIzy => exact .inr ⟨rfl, _, sre_good .izy s, rfl⟩
  | nop54 => exact .inr ⟨rfl, _, nopRead_good .zpx s, rfl⟩
  | eorZpx => exact .inr ⟨rfl, _, eor_good .zpx s, rfl⟩
  | lsrZpx => exact .inr ⟨rfl, _, modifyMem_good lsrOp_bit5 .zpx s, rfl⟩
  | sreZpx => exact .inr ⟨rfl, _, sre_good .zpx s, rfl⟩
  | cli => exact .inr ⟨rfl, _, writeFlag_good (by decide) _ s, rfl⟩
  | eorAby => exact .inr ⟨rfl, _, eor_good .aby s, rfl⟩
  | nop5A => exact .inr ⟨rfl, _, nopImplied_good s, rfl⟩
  | sreAby => exact .inr ⟨rfl, _, sre_good .aby s, rfl⟩
  | nop5C => exact .inr ⟨rfl, _, nopRead_good .abx s, rfl⟩
  | eorAbx => exact .inr ⟨rfl, _, eor_good .abx s, rfl⟩
  | lsrAbx => exact .inr ⟨rfl, _, modifyMem_good lsrOp_bit5 .abx s, rfl⟩
  | sreAbx => exact .inr ⟨rfl, _, sre_good .abx s, rfl⟩
  | rts => exact .inr ⟨rfl, _, rts_good s, rfl⟩
  | adcIzx => exact .inr ⟨rfl, _, adc_good .izx s, rfl⟩
  | jam62 => exact .inl ⟨rfl, rfl⟩
  | rraIzx => exact .inr ⟨rfl, _, rra_good .izx s, rfl⟩
  | nop64 => exact .inr ⟨rfl, _, nopRead_good .zp s, rfl⟩
  | adcZp => exact .inr ⟨rfl, _, adc_good .zp s, rfl⟩
  | rorZp => exact .inr ⟨rfl, _, modifyMem_good rorOp_bit5 .zp s, rfl⟩
  | rraZp => exact .inr ⟨rfl, _, rra_good .zp s, rfl⟩
  | pla => exact .inr ⟨rfl, _, pla_good s, rfl⟩
  | adcImm => exact .inr ⟨rfl, _, adc_good .imm s, rfl⟩
  | rorAcc => exact .inr ⟨rfl, _, shiftAcc_good rorOp_bit5 s, rfl⟩
  | arrImm => exact .inr ⟨rfl, _, arr_good s, rfl⟩
  | jmpInd => exact .inr ⟨rfl, _, jmpIndirect_good s, rfl⟩
  | adcAbs => exact .inr ⟨rfl, _, adc_good .abs s, rfl⟩
  | rorAbs => exact .inr ⟨rfl, _, modifyMem_good rorOp_bit5 .abs s, rfl⟩
  | rraAbs => exact .inr ⟨rfl, _, rra_good .abs s, rfl⟩
  | bvs => exact .inr ⟨rfl, _, branch_good _ s, rfl⟩
  | adcIzy => exact .inr ⟨rfl, _, adc_good .izy s, rfl⟩
  | jam72 => exact .inl ⟨rfl, rfl⟩
  | rraIzy => exact .inr ⟨rfl, _, rra_good .izy s, rfl⟩
  | nop74 => exact .inr ⟨rfl, _, nopRead_good .zpx s, rfl⟩
  | adcZpx => exact .inr ⟨rfl, _, adc_good .zpx s, rfl⟩
  | rorZpx => exact .inr ⟨rfl, _, modifyMem_good rorOp_bit5 .zpx s, rfl⟩
  | rraZpx => exact .inr ⟨rfl, _, rra_good .zpx s, rfl⟩
  | sei => exact .inr ⟨rfl, _, writeFlag_good (by decide) _ s, rfl⟩
  | adcAby => exact .inr ⟨rfl, _, adc_good .aby s, rfl⟩
  | nop7A => exact .inr ⟨rfl, _, nopImplied_good s, rfl⟩
  | rraAby => exact .inr ⟨rfl, _, rra_good .aby s, rfl⟩
  | nop7C => exact .inr ⟨rfl, _, nopRead_good .abx s, rfl⟩
  | adcAbx => exact .inr ⟨rfl, _, adc_good .abx s, rfl⟩
  | rorAbx => exact .inr ⟨rfl, _, modifyMem_good rorOp_bit5 .abx s, rfl⟩
  | rraAbx => exact .inr ⟨rfl, _, rra_good .abx s, rfl⟩
  | nop80 => exact .inr ⟨rfl, _, nopRead_good .imm s, rfl⟩
  | staIzx => exact .inr ⟨rfl, _, sta_good .izx s, rfl⟩
  | nop82 => exact .inr ⟨rfl, _, nopRead_good .imm s, rfl⟩
  | saxIzx => exact .inr ⟨rfl, _, sax_good .izx s, rfl⟩
  | styZp => exact .inr ⟨rfl, _, sty_good .zp s, rfl⟩
  | staZp => exact .inr ⟨rfl, _, sta_good .zp s, rfl⟩
  | stxZp => exact .inr ⟨rfl, _, stx_good .zp s, rfl⟩
  | saxZp => exact .inr ⟨rfl, _, sax_good .zp s, rfl⟩
  | dey => exact .inr ⟨rfl, _, dey_good s, rfl⟩
  | nop89 => exact .inr ⟨rfl, _, nopRead_good .imm s, rfl⟩
  | txa => exact .inr ⟨rfl, _, txa_good s, rfl⟩
  | aneImm => exact .inr ⟨rfl, _, unstableNop2_good s, rfl⟩
  | styAbs => exact .inr ⟨rfl, _, sty_good .abs s, rfl⟩
  | staAbs => exact .inr ⟨rfl, _, sta_good .abs s, rfl⟩
  | stxAbs => exact .inr ⟨rfl, _, stx_good .abs s, rfl⟩
  | saxAbs => exact .inr ⟨rfl, _, sax_good .abs s, rfl⟩
  | bcc => exact .inr ⟨rfl, _, branch_good _ s, rfl⟩
  | staIzy => exact .inr ⟨rfl, _, sta_good .izy s, rfl⟩
  | jam92 => exact .inl ⟨rfl, rfl⟩
  | shaIzy => exact .inr ⟨rfl, _, unstableNop2_good s, rfl⟩
  | styZpx => exact .inr ⟨rfl, _, sty_good .zpx s, rfl⟩
  | staZpx => exact .inr ⟨rfl, _, sta_good .zpx s, rfl⟩
  | stxZpy => exact .inr ⟨rfl, _, stx_good .zpy s, rfl⟩
  | saxZpy => exact .inr ⟨rfl, _, sax_good .zpy s, rfl⟩
  | tya => exact .inr ⟨rfl, _, tya_good s, rfl⟩
  | staAby => exact .inr ⟨rfl, _, sta_good .aby s, rfl⟩
  | txs => exact .inr ⟨rfl, _, txs_good s, rfl⟩
  | tasAby => exact .inr ⟨rfl, _, unstableNop3_good s, rfl⟩
  | shyAbx => exact .inr ⟨rfl, _, unstableNop3_good s, rfl⟩
  | staAbx => exact .inr ⟨rfl, _, sta_good .abx s, rfl⟩
  | shxAby => exact .inr ⟨rfl, _, unstableNop3_good s, rfl⟩
  | shaAby => exact .inr ⟨rfl, _, unstableNop3_good s, rfl⟩
  | ldyImm => exact .inr ⟨rfl, _, ldy_good .imm s, rfl⟩
  | ldaIzx => exact .inr ⟨rfl, _, lda_good .izx s, rfl⟩
  | ldxImm => exact .inr ⟨rfl, _, ldx_good .imm s, rfl⟩
  | laxIzx => exact .inr ⟨rfl, _, lax_good .izx s, rfl⟩
  | ldyZp => exact .inr ⟨rfl, _, ldy_good .zp s, rfl⟩
  | ldaZp => exact .inr ⟨rfl, _, lda_good .zp s, rfl⟩
  | ldxZp => exact .inr ⟨rfl, _, ldx_good .zp s, rfl⟩
  | laxZp => exact .inr ⟨rfl, _, lax_good .zp s, rfl⟩
  | tay => exact .inr ⟨rfl, _, tay_good s, rfl⟩
  | ldaImm => exact .inr ⟨rfl, _, lda_good .imm s, rfl⟩
  | tax => exact .inr ⟨rfl, _, tax_good s, rfl⟩
  | lxaImm => exact .inr ⟨rfl, _, lxa_good s, rfl⟩
  | ldyAbs => exact .inr ⟨rfl, _, ldy_good .abs s, rfl⟩
  | ldaAbs => exact .inr ⟨rfl, _, lda_good .abs s, rfl⟩
  | ldxAbs => exact .inr ⟨rfl, _, ldx_good .abs s, rfl⟩
  | laxAbs => exact .inr ⟨rfl, _, lax_good .abs s, rfl⟩
  | bcs => exact .inr ⟨rfl, _, branch_good _ s, rfl⟩
  | ldaIzy => exact .inr ⟨rfl, _, lda_good .izy s, rfl⟩
  | jamB2 => exact .inl ⟨rfl, rfl⟩
  | laxIzy => exact .inr ⟨rfl, _, lax_good .izy s, rfl⟩
  | ldyZpx => exact .inr ⟨rfl, _, ldy_good .zpx s, rfl⟩
  | ldaZpx => exact .inr ⟨rfl, _, lda_good .zpx s, rfl⟩
  | ldxZpy => exact .inr ⟨rfl, _, ldx_good .zpy s, rfl⟩
  | laxZpy => exact .inr ⟨rfl, _, lax_good .zpy s, rfl⟩
  | clv => exact .inr ⟨rfl, _, writeFlag_good (by decide) _ s, rfl⟩
  | ldaAby => exact .inr ⟨rfl, _, lda_good .aby s, rfl⟩
  | tsx => exact .inr ⟨rfl, _, tsx_good s, rfl⟩
  | lasAby => exact .inr ⟨rfl, _, las_good s, rfl⟩
  | ldyAbx => exact .inr ⟨rfl, _, ldy_good .abx s, rfl⟩
  | ldaAbx => exact .inr ⟨rfl, _, lda_good .abx s, rfl⟩
  | ldxAby => exact .inr ⟨rfl, _, ldx_good .aby s, rfl⟩
  | laxAby => exact .inr ⟨rfl, _, lax_good .aby s, rfl⟩
  | cpyImm => exact .inr ⟨rfl, _, cpy_good .imm s, rfl⟩
  | cmpIzx => exact .inr ⟨rfl, _, cmpA_good .izx s, rfl⟩
  | nopC2 => exact .inr ⟨rfl, _, nopRead_good .imm s, rfl⟩
  | dcpIzx => exact .inr ⟨rfl, _, dcp_good .izx s, rfl⟩
  | cpyZp => exact .inr ⟨rfl, _, cpy_good .zp s, rfl⟩
  | cmpZp => exact .inr ⟨rfl, _, cmpA_good .zp s, rfl⟩
  | decZp => exact .inr ⟨rfl, _, modifyMem_good decOp_bit5 .zp s, rfl⟩
  | dcpZp => exact .inr ⟨rfl, _, dcp_good .zp s, rfl⟩
  | iny => exact .inr ⟨rfl, _, iny_good s, rfl⟩
  | cmpImm => exact .inr ⟨rfl, _, cmpA_good .imm s, rfl⟩
  | dex => exact .inr ⟨rfl, _, dex_good s, rfl⟩
  | sbxImm => exact .inr ⟨rfl, _, sbx_good s, rfl⟩
  | cpyAbs => exact .inr ⟨rfl, _, cpy_good .abs s, rfl⟩
  | cmpAbs => exact .inr ⟨rfl, _, cmpA_good .abs s, rfl⟩
  | decAbs => exact .inr ⟨rfl, _, modifyMem_good decOp_bit5 .abs s, rfl⟩
  | dcpAbs => exact .inr ⟨rfl, _, dcp_good .abs s, rfl⟩
  | bne => exact .inr ⟨rfl, _, branch_good _ s, rfl⟩
  | cmpIzy => exact .inr ⟨rfl, _, cmpA_good .izy s, rfl⟩
  | jamD2 => exact .inl ⟨rfl, rfl⟩
  | dcpIzy => exact .inr ⟨rfl, _, dcp_good .izy s, rfl⟩
  | nopD4 => exact .inr ⟨rfl, _, nopRead_good .zpx s, rfl⟩
  | cmpZpx => exact .inr ⟨rfl, _, cmpA_good .zpx s, rfl⟩
  | decZpx => exact .inr ⟨rfl, _, modifyMem_good decOp_bit5 .zpx s, rfl⟩
  | dcpZpx => exact .inr ⟨rfl, _, dcp_good .zpx s, rfl⟩
  | cld => exact .inr ⟨rfl, _, writeFlag_good (by decide) _ s, rfl⟩
  | cmpAby => exact .inr ⟨rfl, _, cmpA_good .aby s, rfl⟩
  | nopDA => exact .inr ⟨rfl, _, nopImplied_good s, rfl⟩
  | dcpAby => exact .inr ⟨rfl, _, dcp_good .aby s, rfl⟩
  | nopDC => exact .inr ⟨rfl, _, nopRead_good .abx s, rfl⟩
  | cmpAbx => exact .inr ⟨rfl, _, cmpA_good .abx s, rfl⟩
  | decAbx => exact .inr ⟨rfl, _, modifyMem_good decOp_bit5 .abx s, rfl⟩
  | dcpAbx => exact .inr ⟨rfl, _, dcp_good .abx s, rfl⟩
  | cpxImm => exact .inr ⟨rfl, _, cpx_good .imm s, rfl⟩
  | sbcIzx => exact .inr ⟨rfl, _, sbc_good .izx s, rfl⟩
  | nopE2 => exact .inr ⟨rfl, _, nopRead_good .imm s, rfl⟩
  | iscIzx => exact .inr ⟨rfl, _, isc_good .izx s, rfl⟩
  | cpxZp => exact .inr ⟨rfl, _, cpx_good .zp s, rfl⟩
  | sbcZp => exact .inr ⟨rfl, _, sbc_good .zp s, rfl⟩
  | incZp => exact .inr ⟨rfl, _, modifyMem_good incOp_bit5 .zp s, rfl⟩
  | iscZp => exact .inr ⟨rfl, _, isc_good .zp s, rfl⟩
  | inx => exact .inr ⟨rfl, _, inx_good s, rfl⟩
  | sbcImm => exact .inr ⟨rfl, _, sbc_good .imm s, rfl⟩
  | nop => exact .inr ⟨rfl, _, nopImplied_good s, rfl⟩
  | sbcImmEB => exact .inr ⟨rfl, _, sbc_good .imm s, rfl⟩
  | cpxAbs => exact .inr ⟨rfl, _, cpx_good .abs s, rfl⟩
  | sbcAbs => exact .inr ⟨rfl, _, sbc_good .abs s, rfl⟩
  | incAbs => exact .inr ⟨rfl, _, modifyMem_good incOp_bit5 .abs s, rfl⟩
  | iscAbs => exact .inr ⟨rfl, _, isc_good .abs s, rfl⟩
  | beq => exact .inr ⟨rfl, _, branch_good _ s, rfl⟩
  | sbcIzy => exact .inr ⟨rfl, _, sbc_good .izy s, rfl⟩
  | jamF2 => exact .inl ⟨rfl, rfl⟩
  | iscIzy => exact .inr ⟨rfl, _, isc_good .izy s, rfl⟩
  | nopF4 => exact .inr ⟨rfl, _, nopRead_good .zpx s, rfl⟩
  | sbcZpx => exact .inr ⟨rfl, _, sbc_good .zpx s, rfl⟩
  | incZpx => exact .inr ⟨rfl, _, modifyMem_good incOp_bit5 .zpx s, rfl⟩
  | iscZpx => exact .inr ⟨rfl, _, isc_good .zpx s, rfl⟩
  | sed => exact .inr ⟨rfl, _, writeFlag_good (by decide) _ s, rfl⟩
  | sbcAby => exact .inr ⟨rfl, _, sbc_good .aby s, rfl⟩
  | nopFA => exact .inr ⟨rfl, _, nopImplied_good s, rfl⟩
  | iscAby => exact .inr ⟨rfl, _, isc_good .aby s, rfl⟩
  | nopFC => exact .inr ⟨rfl, _, nopRead_good .abx s, rfl⟩
  | sbcAbx => exact .inr ⟨rfl, _, sbc_good .abx s, rfl⟩
  | incAbx => exact .inr ⟨rfl, _, modifyMem_good incOp_bit5 .abx s, rfl⟩
  | iscAbx => exact .inr ⟨rfl, _, isc_good .abx s, rfl⟩

end Sys2Proof.Machine
end

