-- ==== Sys2Proof/Laws/Step.lean ====
section
/-! SUPPORT. The laws of the scheduler: what the poll, the fetch, a host command and a step can do, each said once
(60_exceptions R440 to R446). -/

namespace Sys2Proof.Machine

open Sys2Proof

/-! ### The sequences -/

theorem interrupt_effects {vec : Addr} {s t : State} (h : interrupt vec s = some t) :
    ∃ u, Effects s u ∧ t = u.clearIr := by
  simp only [interrupt, Option.bind_eq_bind, Option.bind_eq_some_iff, Prod.exists, Option.some.injEq] at h
  obtain ⟨v, s1, h1, w, s2, h2, s3, h3, rfl⟩ := h
  exact ⟨s3, .trans (.reads (memRead_didRead h1).1.1) (.trans (.reads (memRead_didRead h2).1.1)
    ((takeException_good _ _ _ _).2 _ h3)), rfl⟩

theorem interrupt_complete {s : State} (h : s.answered) (vec : Addr) : ∃ t, interrupt vec s = some t := by
  obtain ⟨v, s1, h1⟩ := memRead_complete h s.cpu.pc
  have a1 := (memRead_didRead h1).1.1.answered h
  obtain ⟨w, s2, h2⟩ := memRead_complete a1 s.cpu.pc
  obtain ⟨s3, h3⟩ := (takeException_good s.cpu.pc false vec s2).1 ((memRead_didRead h2).1.1.answered a1)
  exact ⟨s3.clearIr, by simp only [interrupt, h1, h2, h3, Option.bind_eq_bind, Option.bind_some]⟩

theorem readAll_onlyRead {l : List Addr} {s t : State} (h : readAll l s = some t) : s.onlyRead t := by
  induction l generalizing s with
  | nil => rw [← Option.some.inj h]; exact .refl s
  | cons a l ih =>
    simp only [readAll, Option.bind_eq_bind, Option.bind_eq_some_iff, Prod.exists] at h
    obtain ⟨v, s1, h1, h2⟩ := h
    exact (memRead_didRead h1).1.1.trans (ih h2)

theorem readAll_complete {s : State} (h : s.answered) (l : List Addr) : ∃ t, readAll l s = some t := by
  induction l generalizing s with
  | nil => exact ⟨s, rfl⟩
  | cons a l ih =>
    obtain ⟨v, s1, h1⟩ := memRead_complete h a
    obtain ⟨t, ht⟩ := ih ((memRead_didRead h1).1.1.answered h)
    exact ⟨t, by simp only [readAll, h1, Option.bind_eq_bind, Option.bind_some, ht]⟩

theorem resetSequence_effects {s t : State} (h : resetSequence s = some t) :
    ∃ u, Effects s u ∧ t = u.clearIr := by
  simp only [resetSequence, Option.bind_eq_bind, Option.bind_eq_some_iff, Prod.exists, Option.some.injEq] at h
  obtain ⟨s1, h1, w, s2, h2, rfl⟩ := h
  exact ⟨forgetRegisters ((s2.setPc w).setP (flagsFrom s2.cfg.resetFlags)),
    .trans (.reads (readAll_onlyRead h1)) (.trans ((readWord_good _ _).2 _ _ h2)
      (.regs rfl fun _ => flagsFrom_bit5 _)), rfl⟩

/-! ### The poll -/

@[simp] theorem consumePoll_cpu (s : State) : (consumePoll s).cpu = s.cpu := rfl
@[simp] theorem consumePoll_bus (s : State) : (consumePoll s).bus = s.bus := rfl
@[simp] theorem consumePoll_cfg (s : State) : (consumePoll s).cfg = s.cfg := rfl
@[simp] theorem consumePoll_host (s : State) : (consumePoll s).host = s.host := rfl
@[simp] theorem consumePoll_out (s : State) : (consumePoll s).out = s.out := rfl
@[simp] theorem consumePoll_free (s : State) : (consumePoll s).free = s.free := rfl

/-- What a poll that does not take RESET can do: the levels are used up, and at most one sequence runs. -/
theorem poll_effects {s t : State} (h : poll s = some t) (hr : resetTaken s = false) :
    ∃ u, Effects (consumePoll s) u ∧ (t = u ∨ t = u.clearIr) := by
  unfold poll at h
  simp only [hr, Bool.false_eq_true, if_false] at h
  split at h
  · obtain ⟨u, hu, e⟩ := interrupt_effects h; exact ⟨u, hu, .inr e⟩
  · split at h
    · obtain ⟨u, hu, e⟩ := interrupt_effects h; exact ⟨u, hu, .inr e⟩
    · exact ⟨_, .refl _, .inl (Option.some.inj h).symm⟩

/-- A poll fetches no opcode. -/
theorem poll_noFetch {s t : State} (h : poll s = some t) :
    ∃ l, t.bus.log = l ++ s.bus.log ∧ l.filter Access.isFetch = [] := by
  by_cases hr : resetTaken s = true
  · simp only [poll, hr, if_true, Option.some.injEq] at h
    rw [← h]
    exact ⟨[], rfl, rfl⟩
  · obtain ⟨u, hu, rfl | rfl⟩ := poll_effects h (by simpa using hr) <;> exact hu.noFetch

theorem poll_complete {s : State} (h : s.answered) : ∃ t, poll s = some t := by
  simp only [poll]
  split
  · exact ⟨_, rfl⟩
  · split
    · exact interrupt_complete (s := consumePoll s) h _
    · split
      · exact interrupt_complete (s := consumePoll s) h _
      · exact ⟨_, rfl⟩

theorem poll_reset {s : State} (hr : resetTaken s = true) : poll s = some ((consumePoll s).setRunMode .resetting) := by
  simp [poll, hr]

/-- A poll with nothing to take. -/
theorem poll_idle {s : State} (h1 : resetTaken s = false) (h2 : nmiEdge s = false) (h3 : irqTaken s = false) :
    poll s = some (consumePoll s) := by
  simp [poll, h1, h2, h3]

/-! ### The fetch -/

/-- What the fetch does: one read, the opcode held, and the pair emitted where the trace is on. -/
theorem fetchOpcode_spec {s t : State} {op : Byte} (h : fetchOpcode s = some (op, t)) :
    ∃ u, memFetch s.cpu.pc s = some (op, u) ∧ t.cpu = u.cpu ∧ t.bus = u.bus ∧ t.polls = u.polls ∧ t.host = u.host ∧
      t.free = u.free ∧ t.cfg = u.cfg ∧
      t.sched = { u.sched with
        ir := some op
        traceSeq := if u.sched.traceEnable then u.sched.traceSeq + 1 else u.sched.traceSeq } ∧
      t.out = { u.out with
        trace := if u.sched.traceEnable then (u.sched.traceSeq, u.cpu.pc) :: u.out.trace else u.out.trace } := by
  simp only [fetchOpcode, Option.bind_eq_bind, Option.bind_eq_some_iff, Prod.exists, Option.some.injEq,
    Prod.mk.injEq] at h
  obtain ⟨op', u, h1, rfl, rfl⟩ := h
  refine ⟨u, h1, ?_⟩
  unfold traceFetch
  by_cases he : u.sched.traceEnable = true <;> simp [he]

theorem fetchOpcode_complete {s : State} (h : s.answered) : ∃ op t, fetchOpcode s = some (op, t) := by
  obtain ⟨v, u, hu⟩ := memFetch_complete h s.cpu.pc
  exact ⟨v, traceFetch (u.setSched { u.sched with ir := some v }),
    by simp only [fetchOpcode, hu, Option.bind_eq_bind, Option.bind_some]⟩

/-- The stop condition as the rule states it (60_exceptions R443). -/
theorem stopCondition_iff (s : State) : stopCondition s = true ↔ s.stopDue := by
  have hf : fenceViolated s.sched.fence s.cpu.pc = true ↔
      ∃ lo hi, s.sched.fence = some (lo, hi) ∧ ¬ (lo ≤ s.cpu.pc ∧ s.cpu.pc ≤ hi) := by
    unfold fenceViolated
    cases s.sched.fence with
    | none => simp
    | some f =>
      obtain ⟨lo, hi⟩ := f
      simp [or_iff_not_imp_left]
  simp [stopCondition, State.stopDue, hf, or_assoc]

/-! ### The step -/

@[simp] theorem passSlot_cpu (s : State) : (passSlot s).cpu = s.cpu := by unfold passSlot; split <;> rfl
@[simp] theorem passSlot_bus (s : State) : (passSlot s).bus = s.bus := by unfold passSlot; split <;> rfl
@[simp] theorem passSlot_sched (s : State) : (passSlot s).sched = s.sched := by unfold passSlot; split <;> rfl
@[simp] theorem passSlot_polls (s : State) : (passSlot s).polls = s.polls := by unfold passSlot; split <;> rfl
@[simp] theorem passSlot_out (s : State) : (passSlot s).out = s.out := by unfold passSlot; split <;> rfl
@[simp] theorem passSlot_free (s : State) : (passSlot s).free = s.free := by unfold passSlot; split <;> rfl
@[simp] theorem passSlot_cfg (s : State) : (passSlot s).cfg = s.cfg := by unfold passSlot; split <;> rfl
theorem passSlot_nil {s : State} (h : s.host = []) : passSlot s = s := by simp [passSlot, h]
@[simp] theorem nextLevels_passSlot (s : State) : nextLevels (passSlot s) = nextLevels s := by simp [nextLevels]
@[simp] theorem resetTaken_passSlot (s : State) : resetTaken (passSlot s) = resetTaken s := by simp [resetTaken]

/-- How the opcode that a step dispatches came to be in `ir`: held from before, or fetched after the poll. -/
def Dispatched (s : State) (op : Byte) (u : State) : Prop :=
  (s.sched.ir = some op ∧ atHold s = false ∧ u = passSlot s) ∨
    (s.sched.ir = none ∧ resetTaken s = false ∧
      ∃ p, poll (passSlot s) = some p ∧ fetchOpcode p = some (op, u))

/-- A step of the locked state answers the host and uses up its slot: nothing else of the machine changes (R448). -/
theorem locked_spec {s t : State} (h : locked s = .next t) :
    t = { s with host := s.host.tail, out := { s.out with replies := t.out.replies } } := by
  unfold locked at h
  split at h
  · cases h
  · rw [← Host.Outcome.next.inj h]; rfl
  · rename_i c _ _
    split at h
    · cases c <;> simp only [Command.isQuery, Bool.false_eq_true] at * <;> rw [← Host.Outcome.next.inj h] <;> rfl
    · rw [← Host.Outcome.next.inj h]; rfl

/-- What the locked state does for the next slot of the host (R448). -/
theorem locked_cons {s : State} {c : Option Command} {rest : List (Option Command)} (h : s.host = c :: rest) :
    ∃ t, locked s = .next t := by
  rcases c with _ | c
  · exact ⟨s.dropSlot, by simp [locked, h]⟩
  · cases c <;> exact ⟨_, by simp only [locked, h, Command.isQuery, if_true, Bool.false_eq_true, if_false]; rfl⟩

/-- EVERYTHING A STEP CAN DO, by the points of the main loop (60_exceptions R440). -/
theorem step_cases {s t : State} (h : step s = .next t) :
    (s.sched.halted = true ∧ locked s = .next t) ∨
    s.sched.halted = false ∧
      ((∃ c, nextCommand s = some c ∧ applyCommand c s.dropSlot = some t) ∨
        nextCommand s = none ∧
          ((s.sched.runMode = .resetting ∧
              ∃ u, resetSequence (passSlot s) = some u ∧ t = u.setRunMode u.cfg.modeAfterReset) ∨
            s.sched.runMode ≠ .resetting ∧
              ((atHold s = true ∧ t = passSlot s) ∨
                (s.sched.ir = none ∧ resetTaken s = true ∧
                  t = (consumePoll (passSlot s)).setRunMode .resetting) ∨
                ∃ op u, Dispatched s op u ∧
                  ((mustStop u = true ∧ t = stopEngine u) ∨
                    (mustStop u = false ∧ u.sched.runMode = .waiting ∧ t = u) ∨
                    (mustStop u = false ∧ u.sched.runMode ≠ .waiting ∧
                      ∃ w, exec (decodeOpcode op) u.clearIr = .next w ∧ t = afterExecute w))))) := by
  have hdisp : ∀ op u, dispatchFetched op u = .next t →
      (mustStop u = true ∧ t = stopEngine u) ∨ (mustStop u = false ∧ u.sched.runMode = .waiting ∧ t = u) ∨
      (mustStop u = false ∧ u.sched.runMode ≠ .waiting ∧
        ∃ w, exec (decodeOpcode op) u.clearIr = .next w ∧ t = afterExecute w) := by
    intro op u hd
    unfold dispatchFetched afterFetch at hd
    by_cases hs : mustStop u = true
    · simp only [hs, if_true, Host.Outcome.next.injEq] at hd
      exact .inl ⟨hs, hd.symm⟩
    · have hs' : mustStop u = false := by simpa using hs
      by_cases hw : u.sched.runMode = .waiting
      · simp only [hs', Bool.false_eq_true, if_false, hw, if_true, Host.Outcome.next.injEq] at hd
        exact .inr (.inl ⟨hs', hw, hd.symm⟩)
      · simp only [hs', Bool.false_eq_true, if_false, hw, executeOpcode] at hd
        refine .inr (.inr ⟨hs', hw, ?_⟩)
        split at hd
        · rename_i w he
          exact ⟨w, he, (Host.Outcome.next.inj hd).symm⟩
        · simp at hd
        · simp at hd
  unfold step at h
  by_cases hh : s.sched.halted = true
  · exact .inl ⟨hh, by simpa [hh] using h⟩
  · have hh' : s.sched.halted = false := by simpa using hh
    refine .inr ⟨hh', ?_⟩
    simp only [hh', Bool.false_eq_true, if_false] at h
    cases hc : nextCommand s with
    | some c =>
      left
      simp only [hc] at h
      cases ha : applyCommand c s.dropSlot with
      | none => simp [ha, complete] at h
      | some u =>
        simp only [ha, complete, Host.Outcome.next.injEq] at h
        exact ⟨c, rfl, by rw [ha, h]⟩
    | none =>
      right
      refine ⟨rfl, ?_⟩
      simp only [hc] at h
      by_cases hm : s.sched.runMode = .resetting
      · left
        simp only [hm, if_true, resetTurn, Option.bind_eq_bind] at h
        cases hr : resetSequence (passSlot s) with
        | none => simp [hr, complete] at h
        | some u =>
          simp only [hr, Option.bind_some, complete, Host.Outcome.next.injEq] at h
          exact ⟨hm, u, rfl, h.symm⟩
      · right
        refine ⟨hm, ?_⟩
        simp only [hm, if_false, turn] at h
        cases hi : s.sched.ir with
        | some op =>
          simp only [hi] at h
          by_cases ht : atHold s = true
          · simp only [ht, if_true, holdForCommand] at h
            split at h
            · simp at h
            · exact .inl ⟨ht, (Host.Outcome.next.inj h).symm⟩
          · have ht' : atHold s = false := by simpa using ht
            simp only [ht', Bool.false_eq_true, if_false] at h
            exact .inr (.inr ⟨op, _, .inl ⟨hi, ht', rfl⟩, hdisp _ _ h⟩)
        | none =>
          simp only [hi, boundary] at h
          cases hp : poll (passSlot s) with
          | none => simp [hp] at h
          | some p =>
            simp only [hp, resetTaken_passSlot] at h
            by_cases hr : resetTaken s = true
            · simp only [hr, if_true, Host.Outcome.next.injEq] at h
              rw [poll_reset (by simpa using hr)] at hp
              exact .inr (.inl ⟨rfl, hr, by rw [← h]; exact (Option.some.inj hp).symm⟩)
            · have hr' : resetTaken s = false := by simpa using hr
              simp only [hr', Bool.false_eq_true, if_false, fetchAndDispatch] at h
              cases hf : fetchOpcode p with
              | none => simp [hf] at h
              | some r =>
                obtain ⟨op, u⟩ := r
                simp only [hf] at h
                exact .inr (.inr ⟨op, u, .inr ⟨hi, hr', p, hp, hf⟩, hdisp _ _ h⟩)

/-! ### What a step keeps -/

/-- `Effects`, an opcode fetch, and changes of the bookkeeping: scheduler, inputs of polls and host, outputs, the count
of free values. -/
inductive Moves : State → State → Prop where
  | effects {s t : State} (h : Effects s t) : Moves s t
  | fetch {s t : State} (h : s.readsOnly Access.isFetch t) : Moves s t
  | book {s t : State} (h : t = { s with sched := t.sched, polls := t.polls, host := t.host, out := t.out, free := t.free }) : Moves s t
  | trans {s t u : State} (h1 : Moves s t) (h2 : Moves t u) : Moves s u

namespace Moves

variable {s t : State} (h : Moves s t)
include h

theorem cfg : t.cfg = s.cfg := by
  induction h with
  | effects h => exact h.cfg
  | fetch h => exact h.cfg
  | book h => rw [h]
  | trans _ _ i1 i2 => exact i2.trans i1

theorem inv (hi : s.inv) : t.inv := by
  induction h with
  | effects h => exact h.inv hi
  | fetch h => exact h.inv hi
  | book h => rw [h]; exact hi
  | trans _ _ i1 i2 => exact i2 (i1 hi)

theorem answered (ha : s.answered) : t.answered := by
  induction h with
  | effects h => exact h.answered ha
  | fetch h => exact h.answered ha
  | book h => rw [h]; exact ha
  | trans _ _ i1 i2 => exact i2 (i1 ha)

theorem shadow_rom {a : Addr} (ha : s.cfg.romBase ≤ a) : t.bus.shadow.get a = s.bus.shadow.get a := by
  induction h with
  | effects h => exact h.shadow_rom ha
  | fetch h => rw [h.shadow]
  | book h => rw [h]
  | trans h1 _ i1 i2 => exact (i2 (by rw [h1.cfg]; exact ha)).trans (i1 ha)

theorem log : ∃ l, t.bus.log = l ++ s.bus.log ∧
    ((s.cfg.matcherEnabled = false ∨ l.any (Access.isBusReadAt s.cfg.keyAddr) = false) →
      t.bus.accel = s.bus.accel ∧ t.bus.matcher = s.bus.matcher) := by
  induction h with
  | effects h => exact h.log
  | fetch h => obtain ⟨-, -, -, -, -, l, hl, -, hk⟩ := h; exact ⟨l, hl, hk⟩
  | book h => rw [h]; exact ⟨[], rfl, fun _ => ⟨rfl, rfl⟩⟩
  | trans h1 _ i1 i2 =>
    obtain ⟨l1, e1, k1⟩ := i1
    obtain ⟨l2, e2, k2⟩ := i2
    refine ⟨l2 ++ l1, by rw [e2, e1, List.append_assoc], fun hk => ?_⟩
    rw [h1.cfg] at k2
    have hk1 := k1 (hk.imp_right fun h => by rw [List.any_append, Bool.or_eq_false_iff] at h; exact h.2)
    have hk2 := k2 (hk.imp_right fun h => by rw [List.any_append, Bool.or_eq_false_iff] at h; exact h.1)
    exact ⟨hk2.1.trans hk1.1, hk2.2.trans hk1.2⟩

end Moves

theorem passSlot_moves (s : State) : Moves s (passSlot s) := .book (by apply State.ext_fields <;> simp)

theorem consumePoll_moves (s : State) : Moves s (consumePoll s) := .book rfl

theorem poll_moves {s t : State} (h : poll s = some t) : Moves s t := by
  by_cases hr : resetTaken s = true
  · rw [poll_reset hr] at h
    rw [← Option.some.inj h]
    exact .trans (consumePoll_moves s) (.book rfl)
  · obtain ⟨u, hu, e⟩ := poll_effects h (by simpa using hr)
    refine .trans (consumePoll_moves s) (.trans (.effects hu) ?_)
    rcases e with rfl | rfl
    · exact .book rfl
    · exact .book rfl

theorem fetchOpcode_moves {s t : State} {op : Byte} (h : fetchOpcode s = some (op, t)) : Moves s t := by
  obtain ⟨y, hy, c1, c2, c3, c4, c5, c6, c7, c8⟩ := fetchOpcode_spec h
  exact .trans (t := { s with free := s.free + 1 }) (.book rfl)
    (.trans (.fetch (memFetch_readsOnly hy).1) (.book (by apply State.ext_fields <;> simp [c1, c2, c6])))

/-- The scheduler after a poll that does not take RESET: the NMI level is recorded, and `ir` is as before or clear. -/
theorem poll_sched {s t : State} (h : poll s = some t) (hr : resetTaken s = false) :
    t.sched = { s.sched with nmiPrev := (nextLevels s).nmiL, ir := t.sched.ir } ∧
      (s.sched.ir = none → t.sched.ir = none) ∧ t.host = s.host ∧ t.polls = s.polls.tail ∧ t.out = s.out := by
  obtain ⟨u, hu, e⟩ := poll_effects h hr
  have h1 := hu.sched; have h2 := hu.host; have h3 := hu.polls; have h4 := hu.out
  rcases e with rfl | rfl <;> simp [h1, h2, h3, h4] <;> simp [consumePoll]

/-- What the dispatched state has of the state the step began in. -/
theorem Dispatched.spec {s u : State} {op : Byte} (h : Dispatched s op u) :
    Moves s u ∧ u.sched.ir = some op ∧
      u.sched = { s.sched with ir := some op, nmiPrev := u.sched.nmiPrev, traceSeq := u.sched.traceSeq } := by
  rcases h with ⟨hi, -, rfl⟩ | ⟨hi, hr, p, hp, hf⟩
  · exact ⟨passSlot_moves s, by simpa using hi, by simp [← hi]⟩
  · have hm := (passSlot_moves s).trans ((poll_moves hp).trans (fetchOpcode_moves hf))
    obtain ⟨e1, -, -, -, -⟩ := poll_sched hp (by simpa using hr)
    obtain ⟨y, hy, c1, c2, c3, c4, c5, c6, c7, c8⟩ := fetchOpcode_spec hf
    have e2 : y.sched = p.sched := (memFetch_readsOnly hy).1.sched
    refine ⟨hm, by rw [c7], ?_⟩
    rw [c7, e2, e1]
    simp

/-- Everything `exec` can do to the parts other than the scheduler's halt. -/
theorem exec_moves {i : Instr} {s t : State} (h : exec i s = .next t) : Moves s t := by
  rcases exec_effects i s with ⟨-, he⟩ | ⟨-, r, hg, he⟩
  · rw [he] at h
    rw [← Host.Outcome.next.inj h]
    exact .book rfl
  · rw [he] at h
    cases r with
    | none => simp [complete] at h
    | some u =>
      simp only [complete, Host.Outcome.next.injEq] at h
      rw [← h]
      exact .effects (hg.2 u rfl)

theorem exec_sched {i : Instr} {s t : State} (h : exec i s = .next t) :
    t.sched = { s.sched with halted := s.sched.halted || isJam i } ∧ t.host = s.host ∧ t.polls = s.polls ∧
      t.out = s.out := by
  rcases exec_effects i s with ⟨hj, he⟩ | ⟨hj, r, hg, he⟩
  · rw [he] at h
    rw [← Host.Outcome.next.inj h]
    simp [hj]
  · rw [he] at h
    cases r with
    | none => simp [complete] at h
    | some u =>
      simp only [complete, Host.Outcome.next.injEq] at h
      rw [← h]
      have := hg.2 u rfl
      simp [hj, this.sched, this.host, this.polls, this.out]

theorem afterExecute_moves (s : State) : Moves s (afterExecute s) := by
  unfold afterExecute
  split
  · exact .book rfl
  · exact .book rfl

/-- A host command other than `setAccel` moves the machine by `Moves` only. -/
theorem applyCommand_moves {c : Command} {s t : State} (h : applyCommand c s = some t) :
    Moves s t ∨ ∃ l, c = .setAccel l ∧ t = s.setBus { s.bus with accel := l } := by
  cases c with
  | setAccel l => exact .inr ⟨l, rfl, (Option.some.inj h).symm⟩
  | readByte a =>
    simp only [applyCommand, Option.bind_eq_bind, Option.bind_eq_some_iff, Prod.exists, Option.some.injEq] at h
    obtain ⟨v, u, h1, rfl⟩ := h
    exact .inl (.trans (.effects (.reads (memRead_didRead h1).1.1)) (.book rfl))
  | writeByte a v => rw [← Option.some.inj h]; exact .inl (.effects (.write s a v))
  | setReg r v =>
    rw [← Option.some.inj h]
    cases r with
    | a => exact .inl (.effects (.regs rfl id))
    | x => exact .inl (.effects (.regs rfl id))
    | y => exact .inl (.effects (.regs rfl id))
    | sp => exact .inl (.effects (.regs rfl id))
    | p => exact .inl (.effects (.regs rfl fun _ => flagsFrom_bit5 _))
    | pc => exact .inl (.trans (.effects (effects_setPc s _)) (.book rfl))
  | step => rw [← Option.some.inj h]; exact .inl (.book rfl)
  | run => rw [← Option.some.inj h]; exact .inl (.book rfl)
  | runTo a => rw [← Option.some.inj h]; exact .inl (.book rfl)
  | reset => rw [← Option.some.inj h]; exact .inl (.book rfl)
  | setRunMode m => rw [← Option.some.inj h]; exact .inl (.book rfl)
  | cancel => rw [← Option.some.inj h]; exact .inl (.book rfl)
  | getReg r => rw [← Option.some.inj h]; exact .inl (.book rfl)
  | getHalted => rw [← Option.some.inj h]; exact .inl (.book rfl)
  | setBreakpoint a => rw [← Option.some.inj h]; exact .inl (.book rfl)
  | clearBreakpoint => rw [← Option.some.inj h]; exact .inl (.book rfl)
  | setFence lo hi => rw [← Option.some.inj h]; exact .inl (.book rfl)
  | clearFence => rw [← Option.some.inj h]; exact .inl (.book rfl)
  | lastAccessInternal => rw [← Option.some.inj h]; exact .inl (.book rfl)
  | getAccel => rw [← Option.some.inj h]; exact .inl (.book rfl)
  | setTrace b => rw [← Option.some.inj h]; exact .inl (.book rfl)

/-- What no host command changes: the halt, the trace, its counter; and none fetches an opcode (R445, R446). -/
theorem applyCommand_keeps {c : Command} {s t : State} (h : applyCommand c s = some t) :
    t.sched.halted = s.sched.halted ∧ t.sched.traceSeq = s.sched.traceSeq ∧ t.out.trace = s.out.trace ∧
      ∃ l, t.bus.log = l ++ s.bus.log ∧ l.filter Access.isFetch = [] := by
  cases c with
  | readByte a =>
    simp only [applyCommand, Option.bind_eq_bind, Option.bind_eq_some_iff, Prod.exists, Option.some.injEq] at h
    obtain ⟨v, u, h1, rfl⟩ := h
    have hr := (memRead_didRead h1).1.1
    exact ⟨by simp [State.reply, hr.sched], by simp [State.reply, hr.sched], by simp [State.reply, hr.out], hr.noFetch⟩
  | writeByte a v =>
    rw [← Option.some.inj h]
    exact ⟨rfl, rfl, rfl, [s.writeEntry a v], (memWrite_stored a v s).log, rfl⟩
  | setReg r v => rw [← Option.some.inj h]; cases r <;> exact ⟨rfl, rfl, rfl, [], rfl, rfl⟩
  | _ => rw [← Option.some.inj h]; exact ⟨rfl, rfl, rfl, [], rfl, rfl⟩

/-- EVERY STEP moves the machine by `Moves` only, but for the host's call that sets the level (10_state R35). -/
theorem step_moves {s t : State} (h : step s = .next t) :
    Moves s t ∨ ∃ l, nextCommand s = some (.setAccel l) ∧ t = s.dropSlot.setBus { s.bus with accel := l } := by
  obtain ⟨-, hl⟩ | ⟨-, ⟨c, hc, ha⟩ | ⟨-, ⟨-, u, hu, rfl⟩ | ⟨-, ⟨-, rfl⟩ | ⟨-, hr, rfl⟩ | ⟨op, u, hd, hx⟩⟩⟩⟩ :=
    step_cases h
  · exact .inl (.book (by rw [locked_spec hl]))
  · rcases applyCommand_moves ha with hm | ⟨l, rfl, rfl⟩
    · exact .inl (.trans (.book rfl) hm)
    · exact .inr ⟨l, hc, rfl⟩
  · obtain ⟨w, hw, rfl⟩ := resetSequence_effects hu
    exact .inl (.trans (passSlot_moves s) (.trans (.effects hw) (.book rfl)))
  · exact .inl (passSlot_moves s)
  · exact .inl (.trans (passSlot_moves s) (.trans (consumePoll_moves _) (.book rfl)))
  · refine .inl (.trans hd.spec.1 ?_)
    rcases hx with ⟨-, rfl⟩ | ⟨-, -, rfl⟩ | ⟨-, -, w, hw, rfl⟩
    · exact .book rfl
    · exact .book rfl
    · exact .trans (.book rfl) (.trans (exec_moves hw) (afterExecute_moves w))

end Sys2Proof.Machine
end

