-- ==== Sys2Proof/Laws/Forms.lean ====
section
/-! SUPPORT. The laws of the predicates that claims are stated in: reads and stores in a row, and the four shapes of
instructions (`State.readForms`, `State.writeForms`, `State.modifyForms`, `State.implied`). -/

namespace Sys2Proof.Machine

open Sys2Proof

/-! ### Reads in a row -/

theorem State.reads.refl (s : State) : s.reads [] s := ⟨rfl, .refl s, fun _ => ⟨by simp, rfl⟩⟩

/-- One read. -/
theorem memRead_reads {a : Addr} {s u : State} {v : Byte} (h : memRead a s = some (v, u)) : s.reads [(a, v)] u := by
  obtain ⟨d, q⟩ := memRead_didRead h
  exact ⟨⟨u, h, rfl⟩, d.1, fun hq => ⟨by simpa using q hq, d.2 hq⟩⟩

theorem State.readChain.append {s t u : State} {l l' : List (Addr × Byte)} (h1 : s.readChain l t)
    (h2 : t.readChain l' u) : s.readChain (l ++ l') u := by
  induction l generalizing s with
  | nil => cases h1; exact h2
  | cons r l ih => obtain ⟨w, hw, h1⟩ := h1; exact ⟨w, hw, ih h1⟩

/-- Reads after reads. -/
theorem State.reads.trans {s t u : State} {l l' : List (Addr × Byte)} (h1 : s.reads l t) (h2 : t.reads l' u) :
    s.reads (l ++ l') u := by
  obtain ⟨c1, o1, q1⟩ := h1
  obtain ⟨c2, o2, q2⟩ := h2
  refine ⟨c1.append c2, o1.trans o2, fun hq => ⟨fun r hr => ?_, ?_⟩⟩
  · rcases List.mem_append.mp hr with hr | hr
    · exact (q1 hq).1 r hr
    · rw [← o1.view_of_quiet hq]; exact (q2 (o1.quiet hq)).1 r hr
  · rw [(q2 (o1.quiet hq)).2, (q1 hq).2, o1.readEntries_of_quiet hq, List.map_append, State.readEntries_append,
      List.append_assoc]

theorem State.reads.onlyRead {s u : State} {l : List (Addr × Byte)} (h : s.reads l u) : s.onlyRead u := h.2.1

/-- One more read completes when the partner answers. -/
theorem State.reads.more {s t : State} {l : List (Addr × Byte)} (h : s.reads l t) (ha : s.answered) (a : Addr) :
    ∃ v u, memRead a t = some (v, u) ∧ s.reads (l ++ [(a, v)]) u := by
  obtain ⟨v, u, hu⟩ := memRead_complete (h.onlyRead.answered ha) a
  exact ⟨v, u, hu, h.trans (memRead_reads hu)⟩

theorem amImp_reads {s : State} (ha : s.answered) : ∃ d u, amImp s = some u ∧ s.reads [(s.cpu.pc + 1, d)] u := by
  obtain ⟨d, u, hu⟩ := memRead_complete ha (s.cpu.pc + 1)
  exact ⟨d, u, by simp only [amImp, hu, Option.bind_eq_bind, Option.bind_some], memRead_reads hu⟩

/-- The registers play no part in a read: it commutes with new registers. -/
theorem memRead_withCpu (a : Addr) (s : State) (c : Cpu) :
    memRead a { s with cpu := c } = (memRead a s).map fun r => (r.1, { r.2 with cpu := c }) := by
  unfold memRead
  cases readByte s.cfg a false false s.bus with
  | none => rfl
  | some r => rfl

theorem memRead_withCpu_some {a : Addr} {s u : State} {v : Byte} (h : memRead a s = some (v, u)) (c : Cpu) :
    memRead a { s with cpu := c } = some (v, { u with cpu := c }) := by
  rw [memRead_withCpu, h]; rfl

/-- The registers play no part in a write. -/
theorem memWrite_withCpu (a : Addr) (v : Byte) (s : State) (c : Cpu) :
    memWrite a v { s with cpu := c } = { memWrite a v s with cpu := c } := rfl

/-- `readAll` completes, with one read for each address of the list. -/
theorem readAll_reads {s : State} (ha : s.answered) (l : List Addr) :
    ∃ ds u, ds.map Prod.fst = l ∧ s.reads ds u ∧ readAll l s = some u := by
  induction l generalizing s with
  | nil => exact ⟨[], s, rfl, .refl s, rfl⟩
  | cons a l ih =>
    obtain ⟨v, u, hu⟩ := memRead_complete ha a
    have hr := memRead_reads hu
    obtain ⟨ds, w, h1, h2, h3⟩ := ih (hr.onlyRead.answered ha)
    exact ⟨(a, v) :: ds, w, by simp [h1], hr.trans h2,
      by simp only [readAll, hu, Option.bind_eq_bind, Option.bind_some, h3]⟩

/-! ### Stores in a row -/

theorem memWrite_stores (a : Addr) (v : Byte) (u : State) : u.stores [(a, v)] (memWrite a v u) :=
  ⟨_, memWrite_stored a v u, rfl⟩

theorem State.stores.cons {u w t : State} {a : Addr} {v : Byte} {l : List (Addr × Byte)} (h : u.stored a v w)
    (h2 : w.stores l t) : u.stores ((a, v) :: l) t := ⟨w, h, h2⟩

theorem State.stores.cpu {u t : State} {l : List (Addr × Byte)} (h : u.stores l t) : t.cpu = u.cpu := by
  induction l generalizing u with
  | nil => rw [h]
  | cons r l ih => obtain ⟨w, hw, h⟩ := h; rw [ih h, hw.cpu]

theorem State.stores.cfg {u t : State} {l : List (Addr × Byte)} (h : u.stores l t) : t.cfg = u.cfg := by
  induction l generalizing u with
  | nil => rw [h]
  | cons r l ih => obtain ⟨w, hw, h⟩ := h; rw [ih h, hw.cfg]

theorem State.stores.answered {u t : State} {l : List (Addr × Byte)} (h : u.stores l t) (ha : u.answered) :
    t.answered := by
  induction l generalizing u with
  | nil => rw [h]; exact ha
  | cons r l ih => obtain ⟨w, hw, h⟩ := h; exact ih h (hw.answered ha)

theorem State.stores.quiet {u t : State} {l : List (Addr × Byte)} (h : u.stores l t) (hq : u.quiet) : t.quiet := by
  induction l generalizing u with
  | nil => rw [h]; exact hq
  | cons r l ih => obtain ⟨w, hw, h⟩ := h; exact ih h (hw.quiet hq)

/-- A byte that none of the stores is at reads as before. -/
theorem State.stores.view_other {u t : State} {l : List (Addr × Byte)} (h : u.stores l t) {b : Addr}
    (hb : ∀ r ∈ l, b ≠ r.1) : t.view b = u.view b := by
  induction l generalizing u with
  | nil => rw [h]
  | cons r l ih =>
    obtain ⟨w, hw, h⟩ := h
    rw [ih h fun r hr => hb r (by simp [hr])]
    exact hw.view_other (hb r (by simp))

/-! ### The shapes of instructions -/

/-- What to show for an instruction that reads its operand. -/
theorem readForms_of {s : State} {forms : List Form} {regs : Byte → Cpu} {flags : Byte → List (Flag × Bool)}
    {op : AddrMode → State → Option State} (ha : s.answered)
    (hf : ∀ f ∈ forms, decodeOpcode f.byte = f.instr ∧ exec f.instr s = complete (op f.mode s))
    (hop : ∀ m v u, readOp m s = some (v, u) → u.cpu = s.cpu → ∃ p, flagsAre s.cpu.p p (flags v) ∧
      op m s = some { u with cpu := { regs v with p := p, pc := s.cpu.pc + m.length } }) :
    s.readForms forms regs flags := by
  intro f hm
  obtain ⟨h1, h2⟩ := hf f hm
  obtain ⟨v, u, hu⟩ := readOp_complete ha f.mode
  have hs := readOp_spec hu
  obtain ⟨p, hp, he⟩ := hop f.mode v u hu hs.2.1.cpu
  exact ⟨h1, v, u, p, hs, hp, by rw [h2, he]; rfl⟩

/-- What to show for an instruction that reads its operand and has one operand form. -/
theorem readForms_of_one {s : State} {forms : List Form} {regs : Byte → Cpu} {flags : Byte → List (Flag × Bool)}
    {op : State → Option State} (m : AddrMode) (ha : s.answered)
    (hf : ∀ f ∈ forms, decodeOpcode f.byte = f.instr ∧ f.mode = m ∧ exec f.instr s = complete (op s))
    (hop : ∀ v u, readOp m s = some (v, u) → u.cpu = s.cpu → ∃ p, flagsAre s.cpu.p p (flags v) ∧
      op s = some { u with cpu := { regs v with p := p, pc := s.cpu.pc + m.length } }) :
    s.readForms forms regs flags := by
  intro f hm
  obtain ⟨h1, h2, h3⟩ := hf f hm
  obtain ⟨v, u, hu⟩ := readOp_complete ha m
  have hs := readOp_spec hu
  obtain ⟨p, hp, he⟩ := hop v u hu hs.2.1.cpu
  exact ⟨h1, v, u, p, by rw [h2]; exact hs, hp, by rw [h3, he, h2]; rfl⟩

/-- What to show for an instruction that stores. -/
theorem writeForms_of {s : State} {forms : List Form} {v : Byte} {op : AddrMode → State → Option State}
    (ha : s.answered)
    (hf : ∀ f ∈ forms, decodeOpcode f.byte = f.instr ∧ exec f.instr s = complete (op f.mode s))
    (hop : ∀ m t, writeOp m v s = some t → op m s = some (t.advance m.length)) : s.writeForms forms v := by
  intro f hm
  obtain ⟨h1, h2⟩ := hf f hm
  obtain ⟨ea, t, ht, hw⟩ := writeOp_complete ha f.mode v
  refine ⟨h1, ea, t, hw, ?_⟩
  obtain ⟨u, -, -, ho, hst, -⟩ := hw
  rw [h2, hop _ _ ht]
  have hc : t.cpu = s.cpu := by rw [hst.cpu, ho.cpu]
  simp only [complete, State.advance, State.setPc, hc]

/-- What to show for an instruction that modifies a memory byte. -/
theorem modifyForms_of {s : State} {forms : List Form} {f : ByteOp} {regs : Byte → Cpu}
    {flags : Byte → List (Flag × Bool)} {op : AddrMode → State → Option State} (ha : s.answered)
    (hf : ∀ g ∈ forms, decodeOpcode g.byte = g.instr ∧ exec g.instr s = complete (op g.mode s))
    (hop : ∀ (m : AddrMode) (old : Byte) (t : State), t.cpu = s.cpu →
      rmwOp m f s = some ((f old s.cpu.p).1, t.setP (f old s.cpu.p).2) → ∃ p, flagsAre s.cpu.p p (flags old) ∧
      op m s = some { t with cpu := { regs old with p := p, pc := s.cpu.pc + m.length } }) :
    s.modifyForms forms (fun old => (f old s.cpu.p).1) regs flags := by
  intro g hm
  obtain ⟨h1, h2⟩ := hf g hm
  obtain ⟨ea, old, t, ht, hc, hr⟩ := rmwOp_complete ha g.mode f
  obtain ⟨p, hp, he⟩ := hop g.mode old t hc hr
  exact ⟨h1, ea, old, t, p, ht, hp, by rw [h2, he]; rfl⟩

/-- What to show for an instruction of one byte without a memory operand. -/
theorem implied_of {s : State} {i : Instr} {byte : Byte} {regs : Cpu} {flags : List (Flag × Bool)}
    {op : State → Option State} (ha : s.answered) (hd : decodeOpcode byte = i)
    (hf : exec i s = complete (op s))
    (hop : ∀ u, amImp s = some u → u.cpu = s.cpu → ∃ p, flagsAre s.cpu.p p flags ∧
      op s = some { u with cpu := { regs with p := p, pc := s.cpu.pc + 1 } }) : s.implied i byte regs flags := by
  obtain ⟨d, u, hu, hr⟩ := amImp_reads ha
  obtain ⟨p, hp, he⟩ := hop u hu hr.onlyRead.cpu
  exact ⟨hd, d, u, p, hr, hp, by rw [hf, he]; rfl⟩

/-- `N` and `Z` as `putNZ` writes them. -/
theorem flagsAre_putNZ' (v p : Byte) : flagsAre p (putNZ v p) (flagsNZ v) := by
  intro g; cases g <;> simp [updated, flagsNZ, BitVec.msb_eq_getLsbD_last]

/-- A carry and then `N` and `Z`. -/
theorem flagsAre_shift' (c : Bool) (r p : Byte) : flagsAre p (putNZ r (putFlag .c c p)) ((.c, c) :: flagsNZ r) := by
  intro g; cases g <;> simp [updated, flagsNZ, BitVec.msb_eq_getLsbD_last]

end Sys2Proof.Machine
end

