-- ==== Sys2Proof/Laws/PerInstr.lean ====
section
/-! SUPPORT. Statements made of every instruction, one lemma per constructor (LAWS.json, family `Encoding`). -/

namespace Sys2Proof.Laws.Encoding

open Sys2Proof

/-- The opcode byte of the instruction selects it, and its length is one of the three formats' (30_encoding R110,
R111). -/
def Statement (i : Instr) : Prop := decodeOpcode i.opcode = i ∧ 1 ≤ i.length ∧ i.length ≤ 3

theorem brk : Statement .brk := by unfold Statement; decide
theorem oraIzx : Statement .oraIzx := by unfold Statement; decide
theorem jam02 : Statement .jam02 := by unfold Statement; decide
theorem sloIzx : Statement .sloIzx := by unfold Statement; decide
theorem nop04 : Statement .nop04 := by unfold Statement; decide
theorem oraZp : Statement .oraZp := by unfold Statement; decide
theorem aslZp : Statement .aslZp := by unfold Statement; decide
theorem sloZp : Statement .sloZp := by unfold Statement; decide
theorem php : Statement .php := by unfold Statement; decide
theorem oraImm : Statement .oraImm := by unfold Statement; decide
theorem aslAcc : Statement .aslAcc := by unfold Statement; decide
theorem anc0B : Statement .anc0B := by unfold Statement; decide
theorem nop0C : Statement .nop0C := by unfold Statement; decide
theorem oraAbs : Statement .oraAbs := by unfold Statement; decide
theorem aslAbs : Statement .aslAbs := by unfold Statement; decide
theorem sloAbs : Statement .sloAbs := by unfold Statement; decide
theorem bpl : Statement .bpl := by unfold Statement; decide
theorem oraIzy : Statement .oraIzy := by unfold Statement; decide
theorem jam12 : Statement .jam12 := by unfold Statement; decide
theorem sloIzy : Statement .sloIzy := by unfold Statement; decide
theorem nop14 : Statement .nop14 := by unfold Statement; decide
theorem oraZpx : Statement .oraZpx := by unfold Statement; decide
theorem aslZpx : Statement .aslZpx := by unfold Statement; decide
theorem sloZpx : Statement .sloZpx := by unfold Statement; decide
theorem clc : Statement .clc := by unfold Statement; decide
theorem oraAby : Statement .oraAby := by unfold Statement; decide
theorem nop1A : Statement .nop1A := by unfold Statement; decide
theorem sloAby : Statement .sloAby := by unfold Statement; decide
theorem nop1C : Statement .nop1C := by unfold Statement; decide
theorem oraAbx : Statement .oraAbx := by unfold Statement; decide
theorem aslAbx : Statement .aslAbx := by unfold Statement; decide
theorem sloAbx : Statement .sloAbx := by unfold Statement; decide
theorem jsr : Statement .jsr := by unfold Statement; decide
theorem andIzx : Statement .andIzx := by unfold Statement; decide
theorem jam22 : Statement .jam22 := by unfold Statement; decide
theorem rlaIzx : Statement .rlaIzx := by unfold Statement; decide
theorem bitZp : Statement .bitZp := by unfold Statement; decide
theorem andZp : Statement .andZp := by unfold Statement; decide
theorem rolZp : Statement .rolZp := by unfold Statement; decide
theorem rlaZp : Statement .rlaZp := by unfold Statement; decide
theorem plp : Statement .plp := by unfold Statement; decide
theorem andImm : Statement .andImm := by unfold Statement; decide
theorem rolAcc : Statement .rolAcc := by unfold Statement; decide
theorem anc2B : Statement .anc2B := by unfold Statement; decide
theorem bitAbs : Statement .bitAbs := by unfold Statement; decide
theorem andAbs : Statement .andAbs := by unfold Statement; decide
theorem rolAbs : Statement .rolAbs := by unfold Statement; decide
theorem rlaAbs : Statement .rlaAbs := by unfold Statement; decide
theorem bmi : Statement .bmi := by unfold Statement; decide
theorem andIzy : Statement .andIzy := by unfold Statement; decide
theorem jam32 : Statement .jam32 := by unfold Statement; decide
theorem rlaIzy : Statement .rlaIzy := by unfold Statement; decide
theorem nop34 : Statement .nop34 := by unfold Statement; decide
theorem andZpx : Statement .andZpx := by unfold Statement; decide
theorem rolZpx : Statement .rolZpx := by unfold Statement; decide
theorem rlaZpx : Statement .rlaZpx := by unfold Statement; decide
theorem sec : Statement .sec := by unfold Statement; decide
theorem andAby : Statement .andAby := by unfold Statement; decide
theorem nop3A : Statement .nop3A := by unfold Statement; decide
theorem rlaAby : Statement .rlaAby := by unfold Statement; decide
theorem nop3C : Statement .nop3C := by unfold Statement; decide
theorem andAbx : Statement .andAbx := by unfold Statement; decide
theorem rolAbx : Statement .rolAbx := by unfold Statement; decide
theorem rlaAbx : Statement .rlaAbx := by unfold Statement; decide
theorem rti : Statement .rti := by unfold Statement; decide
theorem eorIzx : Statement .eorIzx := by unfold Statement; decide
theorem jam42 : Statement .jam42 := by unfold Statement; decide
theorem sreIzx : Statement .sreIzx := by unfold Statement; decide
theorem nop44 : Statement .nop44 := by unfold Statement; decide
theorem eorZp : Statement .eorZp := by unfold Statement; decide
theorem lsrZp : Statement .lsrZp := by unfold Statement; decide
theorem sreZp : Statement .sreZp := by unfold Statement; decide
theorem pha : Statement .pha := by unfold Statement; decide
theorem eorImm : Statement .eorImm := by unfold Statement; decide
theorem lsrAcc : Statement .lsrAcc := by unfold Statement; decide
theorem alrImm : Statement .alrImm := by unfold Statement; decide
theorem jmpAbs : Statement .jmpAbs := by unfold Statement; decide
theorem eorAbs : Statement .eorAbs := by unfold Statement; decide
theorem lsrAbs : Statement .lsrAbs := by unfold Statement; decide
theorem sreAbs : Statement .sreAbs := by unfold Statement; decide
theorem bvc : Statement .bvc := by unfold Statement; decide
theorem eorIzy : Statement .eorIzy := by unfold Statement; decide
theorem jam52 : Statement .jam52 := by unfold Statement; decide
theorem sreIzy : Statement .sreIzy := by unfold Statement; decide
theorem nop54 : Statement .nop54 := by unfold Statement; decide
theorem eorZpx : Statement .eorZpx := by unfold Statement; decide
theorem lsrZpx : Statement .lsrZpx := by unfold Statement; decide
theorem sreZpx : Statement .sreZpx := by unfold Statement; decide
theorem cli : Statement .cli := by unfold Statement; decide
theorem eorAby : Statement .eorAby := by unfold Statement; decide
theorem nop5A : Statement .nop5A := by unfold Statement; decide
theorem sreAby : Statement .sreAby := by unfold Statement; decide
theorem nop5C : Statement .nop5C := by unfold Statement; decide
theorem eorAbx : Statement .eorAbx := by unfold Statement; decide
theorem lsrAbx : Statement .lsrAbx := by unfold Statement; decide
theorem sreAbx : Statement .sreAbx := by unfold Statement; decide
theorem rts : Statement .rts := by unfold Statement; decide
theorem adcIzx : Statement .adcIzx := by unfold Statement; decide
theorem jam62 : Statement .jam62 := by unfold Statement; decide
theorem rraIzx : Statement .rraIzx := by unfold Statement; decide
theorem nop64 : Statement .nop64 := by unfold Statement; decide
theorem adcZp : Statement .adcZp := by unfold Statement; decide
theorem rorZp : Statement .rorZp := by unfold Statement; decide
theorem rraZp : Statement .rraZp := by unfold Statement; decide
theorem pla : Statement .pla := by unfold Statement; decide
theorem adcImm : Statement .adcImm := by unfold Statement; decide
theorem rorAcc : Statement .rorAcc := by unfold Statement; decide
theorem arrImm : Statement .arrImm := by unfold Statement; decide
theorem jmpInd : Statement .jmpInd := by unfold Statement; decide
theorem adcAbs : Statement .adcAbs := by unfold Statement; decide
theorem rorAbs : Statement .rorAbs := by unfold Statement; decide
theorem rraAbs : Statement .rraAbs := by unfold Statement; decide
theorem bvs : Statement .bvs := by unfold Statement; decide
theorem adcIzy : Statement .adcIzy := by unfold Statement; decide
theorem jam72 : Statement .jam72 := by unfold Statement; decide
theorem rraIzy : Statement .rraIzy := by unfold Statement; decide
theorem nop74 : Statement .nop74 := by unfold Statement; decide
theorem adcZpx : Statement .adcZpx := by unfold Statement; decide
theorem rorZpx : Statement .rorZpx := by unfold Statement; decide
theorem rraZpx : Statement .rraZpx := by unfold Statement; decide
theorem sei : Statement .sei := by unfold Statement; decide
theorem adcAby : Statement .adcAby := by unfold Statement; decide
theorem nop7A : Statement .nop7A := by unfold Statement; decide
theorem rraAby : Statement .rraAby := by unfold Statement; decide
theorem nop7C : Statement .nop7C := by unfold Statement; decide
theorem adcAbx : Statement .adcAbx := by unfold Statement; decide
theorem rorAbx : Statement .rorAbx := by unfold Statement; decide
theorem rraAbx : Statement .rraAbx := by unfold Statement; decide
theorem nop80 : Statement .nop80 := by unfold Statement; decide
theorem staIzx : Statement .staIzx := by unfold Statement; decide
theorem nop82 : Statement .nop82 := by unfold Statement; decide
theorem saxIzx : Statement .saxIzx := by unfold Statement; decide
theorem styZp : Statement .styZp := by unfold Statement; decide
theorem staZp : Statement .staZp := by unfold Statement; decide
theorem stxZp : Statement .stxZp := by unfold Statement; decide
theorem saxZp : Statement .saxZp := by unfold Statement; decide
theorem dey : Statement .dey := by unfold Statement; decide
theorem nop89 : Statement .nop89 := by unfold Statement; decide
theorem txa : Statement .txa := by unfold Statement; decide
theorem aneImm : Statement .aneImm := by unfold Statement; decide
theorem styAbs : Statement .styAbs := by unfold Statement; decide
theorem staAbs : Statement .staAbs := by unfold Statement; decide
theorem stxAbs : Statement .stxAbs := by unfold Statement; decide
theorem saxAbs : Statement .saxAbs := by unfold Statement; decide
theorem bcc : Statement .bcc := by unfold Statement; decide
theorem staIzy : Statement .staIzy := by unfold Statement; decide
theorem jam92 : Statement .jam92 := by unfold Statement; decide
theorem shaIzy : Statement .shaIzy := by unfold Statement; decide
theorem styZpx : Statement .styZpx := by unfold Statement; decide
theorem staZpx : Statement .staZpx := by unfold Statement; decide
theorem stxZpy : Statement .stxZpy := by unfold Statement; decide
theorem saxZpy : Statement .saxZpy := by unfold Statement; decide
theorem tya : Statement .tya := by unfold Statement; decide
theorem staAby : Statement .staAby := by unfold Statement; decide
theorem txs : Statement .txs := by unfold Statement; decide
theorem tasAby : Statement .tasAby := by unfold Statement; decide
theorem shyAbx : Statement .shyAbx := by unfold Statement; decide
theorem staAbx : Statement .staAbx := by unfold Statement; decide
theorem shxAby : Statement .shxAby := by unfold Statement; decide
theorem shaAby : Statement .shaAby := by unfold Statement; decide
theorem ldyImm : Statement .ldyImm := by unfold Statement; decide
theorem ldaIzx : Statement .ldaIzx := by unfold Statement; decide
theorem ldxImm : Statement .ldxImm := by unfold Statement; decide
theorem laxIzx : Statement .laxIzx := by unfold Statement; decide
theorem ldyZp : Statement .ldyZp := by unfold Statement; decide
theorem ldaZp : Statement .ldaZp := by unfold Statement; decide
theorem ldxZp : Statement .ldxZp := by unfold Statement; decide
theorem laxZp : Statement .laxZp := by unfold Statement; decide
theorem tay : Statement .tay := by unfold Statement; decide
theorem ldaImm : Statement .ldaImm := by unfold Statement; decide
theorem tax : Statement .tax := by unfold Statement; decide
theorem lxaImm : Statement .lxaImm := by unfold Statement; decide
theorem ldyAbs : Statement .ldyAbs := by unfold Statement; decide
theorem ldaAbs : Statement .ldaAbs := by unfold Statement; decide
theorem ldxAbs : Statement .ldxAbs := by unfold Statement; decide
theorem laxAbs : Statement .laxAbs := by unfold Statement; decide
theorem bcs : Statement .bcs := by unfold Statement; decide
theorem ldaIzy : Statement .ldaIzy := by unfold Statement; decide
theorem jamB2 : Statement .jamB2 := by unfold Statement; decide
theorem laxIzy : Statement .laxIzy := by unfold Statement; decide
theorem ldyZpx : Statement .ldyZpx := by unfold Statement; decide
theorem ldaZpx : Statement .ldaZpx := by unfold Statement; decide
theorem ldxZpy : Statement .ldxZpy := by unfold Statement; decide
theorem laxZpy : Statement .laxZpy := by unfold Statement; decide
theorem clv : Statement .clv := by unfold Statement; decide
theorem ldaAby : Statement .ldaAby := by unfold Statement; decide
theorem tsx : Statement .tsx := by unfold Statement; decide
theorem lasAby : Statement .lasAby := by unfold Statement; decide
theorem ldyAbx : Statement .ldyAbx := by unfold Statement; decide
theorem ldaAbx : Statement .ldaAbx := by unfold Statement; decide
theorem ldxAby : Statement .ldxAby := by unfold Statement; decide
theorem laxAby : Statement .laxAby := by unfold Statement; decide
theorem cpyImm : Statement .cpyImm := by unfold Statement; decide
theorem cmpIzx : Statement .cmpIzx := by unfold Statement; decide
theorem nopC2 : Statement .nopC2 := by unfold Statement; decide
theorem dcpIzx : Statement .dcpIzx := by unfold Statement; decide
theorem cpyZp : Statement .cpyZp := by unfold Statement; decide
theorem cmpZp : Statement .cmpZp := by unfold Statement; decide
theorem decZp : Statement .decZp := by unfold Statement; decide
theorem dcpZp : Statement .dcpZp := by unfold Statement; decide
theorem iny : Statement .iny := by unfold Statement; decide
theorem cmpImm : Statement .cmpImm := by unfold Statement; decide
theorem dex : Statement .dex := by unfold Statement; decide
theorem sbxImm : Statement .sbxImm := by unfold Statement; decide
theorem cpyAbs : Statement .cpyAbs := by unfold Statement; decide
theorem cmpAbs : Statement .cmpAbs := by unfold Statement; decide
theorem decAbs : Statement .decAbs := by unfold Statement; decide
theorem dcpAbs : Statement .dcpAbs := by unfold Statement; decide
theorem bne : Statement .bne := by unfold Statement; decide
theorem cmpIzy : Statement .cmpIzy := by unfold Statement; decide
theorem jamD2 : Statement .jamD2 := by unfold Statement; decide
theorem dcpIzy : Statement .dcpIzy := by unfold Statement; decide
theorem nopD4 : Statement .nopD4 := by unfold Statement; decide
theorem cmpZpx : Statement .cmpZpx := by unfold Statement; decide
theorem decZpx : Statement .decZpx := by unfold Statement; decide
theorem dcpZpx : Statement .dcpZpx := by unfold Statement; decide
theorem cld : Statement .cld := by unfold Statement; decide
theorem cmpAby : Statement .cmpAby := by unfold Statement; decide
theorem nopDA : Statement .nopDA := by unfold Statement; decide
theorem dcpAby : Statement .dcpAby := by unfold Statement; decide
theorem nopDC : Statement .nopDC := by unfold Statement; decide
theorem cmpAbx : Statement .cmpAbx := by unfold Statement; decide
theorem decAbx : Statement .decAbx := by unfold Statement; decide
theorem dcpAbx : Statement .dcpAbx := by unfold Statement; decide
theorem cpxImm : Statement .cpxImm := by unfold Statement; decide
theorem sbcIzx : Statement .sbcIzx := by unfold Statement; decide
theorem nopE2 : Statement .nopE2 := by unfold Statement; decide
theorem iscIzx : Statement .iscIzx := by unfold Statement; decide
theorem cpxZp : Statement .cpxZp := by unfold Statement; decide
theorem sbcZp : Statement .sbcZp := by unfold Statement; decide
theorem incZp : Statement .incZp := by unfold Statement; decide
theorem iscZp : Statement .iscZp := by unfold Statement; decide
theorem inx : Statement .inx := by unfold Statement; decide
theorem sbcImm : Statement .sbcImm := by unfold Statement; decide
theorem nop : Statement .nop := by unfold Statement; decide
theorem sbcImmEB : Statement .sbcImmEB := by unfold Statement; decide
theorem cpxAbs : Statement .cpxAbs := by unfold Statement; decide
theorem sbcAbs : Statement .sbcAbs := by unfold Statement; decide
theorem incAbs : Statement .incAbs := by unfold Statement; decide
theorem iscAbs : Statement .iscAbs := by unfold Statement; decide
theorem beq : Statement .beq := by unfold Statement; decide
theorem sbcIzy : Statement .sbcIzy := by unfold Statement; decide
theorem jamF2 : Statement .jamF2 := by unfold Statement; decide
theorem iscIzy : Statement .iscIzy := by unfold Statement; decide
theorem nopF4 : Statement .nopF4 := by unfold Statement; decide
theorem sbcZpx : Statement .sbcZpx := by unfold Statement; decide
theorem incZpx : Statement .incZpx := by unfold Statement; decide
theorem iscZpx : Statement .iscZpx := by unfold Statement; decide
theorem sed : Statement .sed := by unfold Statement; decide
theorem sbcAby : Statement .sbcAby := by unfold Statement; decide
theorem nopFA : Statement .nopFA := by unfold Statement; decide
theorem iscAby : Statement .iscAby := by unfold Statement; decide
theorem nopFC : Statement .nopFC := by unfold Statement; decide
theorem sbcAbx : Statement .sbcAbx := by unfold Statement; decide
theorem incAbx : Statement .incAbx := by unfold Statement; decide
theorem iscAbx : Statement .iscAbx := by unfold Statement; decide

end Sys2Proof.Laws.Encoding
end

