-- ==== Sys2Proof/Laws/Stack.lean ====
section
/-! SUPPORT. The laws of the stack operations, of taking an exception and of returning from one, each with the reads and
stores it makes and the registers it leaves (00_scope R11, 45_stack_flag_system R330, R331). A state is written as one
whose memory side is named and whose registers are given, so that the laws chain. -/

namespace Sys2Proof.Machine

open Sys2Proof

/-- The stack address depends on the parameters only. -/
theorem State.stack_of_cfg {s t : State} (h : t.cfg = s.cfg) (sp : Byte) : t.stack sp = s.stack sp := by
  unfold State.stack; rw [h]

/-- Where the stack page begins at a page, different stack pointers have different stack addresses. -/
theorem State.stack_ne {s : State} (h : lo8 s.cfg.stackBase = 0) {x y : Byte} (hx : x ≠ y) :
    s.stack x ≠ s.stack y := by
  have hz : ∀ z : Byte, lo8 (s.stack z) = z := by
    intro z
    have hl : lo8 (s.stack z) = lo8 s.cfg.stackBase ||| z := by
      simp only [State.stack, lo8, zext16, BitVec.setWidth_or]
      congr 1
      simp
    rw [hl, h]; simp
  intro he
  exact hx (by rw [← hz x, ← hz y, he])

@[simp] theorem stackAddr_withCpu (s : State) (c : Cpu) : stackAddr { s with cpu := c } = s.stack c.sp := rfl

theorem stackAddr_eq (s : State) : stackAddr s = s.stack s.cpu.sp := rfl

/-- `pull` in a state with the registers `c`. -/
theorem pull_withCpu {s u : State} {v : Byte} {c : Cpu} {a : Addr} (ha : s.stack (c.sp + 1) = a)
    (h : memRead a s = some (v, u)) :
    pull { s with cpu := c } = some (v, { u with cpu := { c with sp := c.sp + 1 } }) := by
  subst ha
  exact memRead_withCpu_some h _

/-- `pull` of two bytes in a state with the registers `c`. -/
theorem pullWord_withCpu {s u w : State} {lo hi : Byte} {c : Cpu} {a b : Addr} (ha : s.stack (c.sp + 1) = a)
    (hb : s.stack (c.sp + 2) = b) (h1 : memRead a s = some (lo, u)) (h2 : memRead b u = some (hi, w)) :
    pullWord { s with cpu := c } = some (cat hi lo, { w with cpu := { c with sp := c.sp + 2 } }) := by
  have e : c.sp + 1 + 1 = c.sp + 2 := by rw [BitVec.add_assoc]; rfl
  have hu : u.cfg = s.cfg := (memRead_reads h1).onlyRead.cfg
  have h2' : pull { u with cpu := { c with sp := c.sp + 1 } } =
      some (hi, { w with cpu := { c with sp := c.sp + 2 } }) := by
    rw [← e]
    exact pull_withCpu (c := { c with sp := c.sp + 1 }) (by rw [← hb, ← e, State.stack_of_cfg hu]) h2
  simp only [pullWord, pull_withCpu ha h1, h2', Option.bind_eq_bind, Option.bind_some]

/-- `push` in a state with the registers `c`: one store. -/
theorem push_withCpu (v : Byte) (s : State) (c : Cpu) :
    ∃ t, s.stored (s.stack c.sp) v t ∧ push v { s with cpu := c } = { t with cpu := { c with sp := c.sp - 1 } } :=
  ⟨memWrite (s.stack c.sp) v s, memWrite_stored _ _ _, rfl⟩

/-- `push` of a word in a state with the registers `c`: the high byte first. -/
theorem pushWord_withCpu (w : Addr) (s : State) (c : Cpu) :
    ∃ t, s.stores [(s.stack c.sp, hi8 w), (s.stack (c.sp - 1), lo8 w)] t ∧
      pushWord w { s with cpu := c } = { t with cpu := { c with sp := c.sp - 2 } } := by
  obtain ⟨t1, h1, e1⟩ := push_withCpu (hi8 w) s c
  obtain ⟨t2, h2, e2⟩ := push_withCpu (lo8 w) t1 { c with sp := c.sp - 1 }
  have e : c.sp - 1 - 1 = c.sp - 2 := by bv_omega
  rw [State.stack_of_cfg h1.cfg] at h2
  exact ⟨t2, .cons h1 (.cons h2 rfl), by rw [pushWord, e1, e2]; simp only [e]⟩

/-- Reading a word in a state with the registers `c`. -/
theorem readWord_withCpu {s u w : State} {lo hi : Byte} {a : Addr} (c : Cpu) (h1 : memRead a s = some (lo, u))
    (h2 : memRead (a + 1) u = some (hi, w)) :
    readWord a { s with cpu := c } = some (cat hi lo, { w with cpu := c }) := by
  simp only [readWord, memRead_withCpu_some h1, memRead_withCpu_some h2, Option.bind_eq_bind, Option.bind_some]

/-- TAKING AN EXCEPTION: the three stores, the two reads of the vector, and the registers after it. -/
theorem takeException_spec {s : State} (ha : s.answered) (ret : Addr) (brk : Bool) (vec : Addr) :
    ∃ t lo hi w,
      s.stores [(s.stack s.cpu.sp, hi8 ret), (s.stack (s.cpu.sp - 1), lo8 ret),
        (s.stack (s.cpu.sp - 2), putFlag .b brk s.cpu.p)] t ∧
      t.reads [(vec, lo), (vec + 1, hi)] w ∧
      takeException ret brk vec s = some { w with
        cpu := { s.cpu with
          sp := s.cpu.sp - 3, p := putFlag .i true (putFlag .b brk s.cpu.p), pc := cat hi lo } } := by
  obtain ⟨t1, h1, e1⟩ := pushWord_withCpu ret s { s.cpu with p := putFlag .b brk s.cpu.p }
  obtain ⟨t2, h2, e2⟩ :=
    push_withCpu (putFlag .b brk s.cpu.p) t1 { s.cpu with p := putFlag .b brk s.cpu.p, sp := s.cpu.sp - 2 }
  have e : s.cpu.sp - 2 - 1 = s.cpu.sp - 3 := by bv_omega
  have at2 : t2.answered := h2.answered (h1.answered ha)
  obtain ⟨lo, u, hu⟩ := memRead_complete at2 vec
  obtain ⟨hi, w, hw, hr⟩ := (memRead_reads hu).more at2 (vec + 1)
  rw [State.stack_of_cfg h1.cfg] at h2
  obtain ⟨x1, hx1, x2, hx2, hx3⟩ := h1
  have hx3' : t1 = x2 := hx3
  subst hx3'
  refine ⟨t2, lo, hi, w, .cons hx1 (.cons hx2 (.cons h2 rfl)), hr, ?_⟩
  have e1' : pushWord ret (s.setFlag .b brk) =
      { t1 with cpu := { s.cpu with p := putFlag .b brk s.cpu.p, sp := s.cpu.sp - 2 } } := e1
  simp only [takeException, e1', e2, readWord_withCpu _ hu hw, Option.bind_eq_bind, Option.bind_some, e]
  rfl

/-- RETURN FROM AN EXCEPTION in a state with the registers `c`, with the three reads it makes. -/
theorem returnFromException_withCpu {s u1 u2 u3 : State} {f lo hi : Byte} {c : Cpu}
    (h1 : memRead (s.stack (c.sp + 1)) s = some (f, u1)) (h2 : memRead (s.stack (c.sp + 2)) u1 = some (lo, u2))
    (h3 : memRead (s.stack (c.sp + 3)) u2 = some (hi, u3)) :
    returnFromException { s with cpu := c } =
      some { u3 with cpu := { c with sp := c.sp + 3, p := flagsFrom f, pc := cat hi lo } } := by
  have hc : u1.cfg = s.cfg := (memRead_reads h1).onlyRead.cfg
  have hp := pullWord_withCpu (c := { c with sp := c.sp + 1, p := flagsFrom f })
    (by rw [State.stack_of_cfg hc, show c.sp + 1 + 1 = c.sp + 2 by rw [BitVec.add_assoc]; rfl])
    (by rw [State.stack_of_cfg hc, show c.sp + 1 + 2 = c.sp + 3 by rw [BitVec.add_assoc]; rfl]) h2 h3
  simp only [returnFromException, pull_withCpu rfl h1, Option.bind_eq_bind, Option.bind_some, State.setP, hp,
    State.setPc, show c.sp + 1 + 2 = c.sp + 3 by rw [BitVec.add_assoc]; rfl]

end Sys2Proof.Machine
end

