-- ==== Sys2Proof/Laws/Simulation.lean ====
section
/-! SUPPORT. The simulation behind the independence of architecture from acceleration (70_reset_and_hazards R472): from
two states of one machine that agree as `State.sameRun` says, every operation and every instruction completes in both,
with the same value and in states that agree again. A second state is written as the first with another bus unit. -/

namespace Sys2Proof.Machine

open Sys2Proof

/-- The state `s` and the same state with the bus unit `b` agree. -/
def Agree (s : State) (b : Bus) : Prop := s.sameRun { s with bus := b }

theorem State.sameRun.agree {s t : State} (h : s.sameRun t) : t = { s with bus := t.bus } ∧ Agree s t.bus := by
  refine ⟨h.1, ?_⟩
  have h' := h
  rw [h.1] at h'
  exact h'

namespace Agree

variable {s t : State} {b : Bus} (h : Agree s b)
include h

theorem host : s.host = [] := h.2.1
theorem disjoint : s.cfg.windowsDisjoint = true := h.2.2.1
theorem quiet : s.quiet := h.2.2.2.1
theorem quiet' : ({ s with bus := b } : State).quiet := h.2.2.2.2.1
theorem coherent : s.coherent := h.2.2.2.2.2.1
theorem coherent' : ({ s with bus := b } : State).coherent := h.2.2.2.2.2.2.1
theorem lines : b.partner.lines = s.bus.partner.lines := h.2.2.2.2.2.2.2.1
theorem shadow {a : Addr} (ha : a < s.cfg.romBase) : b.shadow.get a = s.bus.shadow.get a :=
  h.2.2.2.2.2.2.2.2.1 a ha
theorem rom {a : Addr} (ha : s.cfg.romBase ≤ a) : b.partner.mem.get a = s.bus.partner.mem.get a :=
  h.2.2.2.2.2.2.2.2.2 a ha

/-- Agreement is about the bus unit, the parameters and the host's queue only. -/
theorem book (h1 : t.bus = s.bus) (h2 : t.cfg = s.cfg) (h3 : t.host = s.host) : Agree t b := by
  obtain ⟨-, i1, i2, i3, i4, i5, i6, i7, i8, i9⟩ := h
  refine ⟨rfl, by rw [h3]; exact i1, by rw [h2]; exact i2, ?_, ?_, ?_, ?_, by rw [h1]; exact i7, ?_, ?_⟩
  · unfold State.quiet at *; rw [h1, h2]; exact i3
  · unfold State.quiet at *; simp only [h2]; exact i4
  · unfold State.coherent State.policy at *; rw [h1, h2]; exact i5
  · unfold State.coherent State.policy at *; simp only [h2]; exact i6
  · rw [h1, h2]; exact i8
  · rw [h1, h2]; exact i9

/-- The byte a read returns is the same in both. -/
theorem view (a : Addr) : ({ s with bus := b } : State).view a = s.view a := by
  by_cases ha : s.cfg.romBase ≤ a
  · have hp : ∀ l, classify s.cfg a l = .allExternal := fun l => by
      rw [classify_of_disjoint h.disjoint]; simp [ha]
    simp [State.view, State.policy, hp, returnsDataIn, h.rom ha]
  · have ha' : a < s.cfg.romBase := by bv_omega
    have hv : ∀ t : State, t.cfg = s.cfg → t.coherent → t.view a = t.bus.shadow.get a := by
      intro t ht hc
      unfold State.view
      split
      · rename_i hr; exact hc a (by rw [ht]; exact ha') hr
      · rfl
    rw [hv s rfl h.coherent, hv { s with bus := b } rfl h.coherent']
    exact h.shadow ha'

end Agree

theorem State.coherent.readsOnly {kind : Access → Bool} {s u : State} (hc : s.coherent) (hq : s.quiet)
    (h : s.readsOnly kind u) : u.coherent := by
  intro a ha hr
  rw [h.partnerMem, h.shadow]
  rw [h.cfg] at ha
  rw [h.cfg, h.policy_of_quiet hq] at hr
  exact hc a ha hr

theorem State.coherent.stored {s u : State} {a : Addr} {v : Byte} (hc : s.coherent) (h : s.stored a v u) :
    u.coherent := by
  intro x hx hr
  rw [h.cfg] at hx hr
  rw [h.policy] at hr
  rw [h.partnerMem, h.shadow]
  by_cases hxa : x = a
  · subst hxa
    have hp : s.policy x ≠ .allFastInternal := by
      intro hp
      have hd := returnsDataIn_of_fast (c := s.cfg) (a := x) (l := s.bus.accel)
        (by rw [show classify s.cfg x s.bus.accel = _ from hp]; rfl)
      rw [show classify s.cfg x s.bus.accel = s.policy x from rfl, hr] at hd
      exact absurd hd (by decide)
    simp [hp, hx]
  · simp only [hxa, false_and, if_false]
    exact hc x hx hr

/-! ### Results that agree -/

/-- Both results are states, and they agree. -/
def SimAt (r r' : Option State) : Prop := ∃ t b, r = some t ∧ r' = some { t with bus := b } ∧ Agree t b

/-- Both results are a value and a state: the values are equal and the states agree. -/
def SimAtV {α : Type} (r r' : Option (α × State)) : Prop :=
  ∃ v t b, r = some (v, t) ∧ r' = some (v, { t with bus := b }) ∧ Agree t b

theorem simAt_some {t : State} {b : Bus} (h : Agree t b) : SimAt (some t) (some { t with bus := b }) :=
  ⟨t, b, rfl, rfl, h⟩

theorem simAtV_some {α : Type} {t : State} {b : Bus} {v : α} (h : Agree t b) :
    SimAtV (some (v, t)) (some (v, { t with bus := b })) :=
  ⟨v, t, b, rfl, rfl, h⟩

theorem simAt_bind {α : Type} {r r' : Option (α × State)} {g g' : α × State → Option State} (hr : SimAtV r r')
    (hg : ∀ v t b, Agree t b → SimAt (g (v, t)) (g' (v, { t with bus := b }))) : SimAt (r >>= g) (r' >>= g') := by
  obtain ⟨v, t, b, rfl, rfl, h⟩ := hr
  exact hg v t b h

theorem simAt_bind' {r r' : Option State} {g g' : State → Option State} (hr : SimAt r r')
    (hg : ∀ t b, Agree t b → SimAt (g t) (g' { t with bus := b })) : SimAt (r >>= g) (r' >>= g') := by
  obtain ⟨t, b, rfl, rfl, h⟩ := hr
  exact hg t b h

theorem simAtV_bind {α β : Type} {r r' : Option (α × State)} {g g' : α × State → Option (β × State)}
    (hr : SimAtV r r') (hg : ∀ v t b, Agree t b → SimAtV (g (v, t)) (g' (v, { t with bus := b }))) :
    SimAtV (r >>= g) (r' >>= g') := by
  obtain ⟨v, t, b, rfl, rfl, h⟩ := hr
  exact hg v t b h

/-- Both states with other registers. -/
theorem Agree.regs {s : State} {b : Bus} (h : Agree s b) (c : Cpu) : Agree { s with cpu := c } b :=
  h.book rfl rfl rfl

/-- Reads on both sides that answer the same byte. -/
theorem agree_readsOnly {k k' : Access → Bool} {s t t' : State} {b : Bus} (h : Agree s b) (h1 : s.readsOnly k t)
    (h2 : ({ s with bus := b } : State).readsOnly k' t') : t' = { t with bus := t'.bus } ∧ Agree t t'.bus := by
  have e : t' = { t with bus := t'.bus } := by rw [h2.1, h1.1]
  refine ⟨e, rfl, by rw [h1.host]; exact h.host, by rw [h1.cfg]; exact h.disjoint, h1.quiet h.quiet, ?_,
    h.coherent.readsOnly h.quiet h1, ?_, ?_, fun a ha => ?_, fun a ha => ?_⟩
  · rw [← e]; exact h2.quiet h.quiet'
  · rw [← e]; exact h.coherent'.readsOnly h.quiet' h2
  · rw [h1.lines, ← h.lines]; exact h2.lines
  · rw [h1.cfg] at ha
    rw [h1.shadow, ← h.shadow ha, ← h2.shadow]
  · rw [h1.cfg] at ha
    rw [h1.partnerMem, ← h.rom ha, ← h2.partnerMem]

theorem memRead_sim {s : State} {b : Bus} (h : Agree s b) (a : Addr) :
    SimAtV (memRead a s) (memRead a { s with bus := b }) := by
  obtain ⟨v, t, ht⟩ := memRead_complete h.quiet.answered a
  obtain ⟨v', t', ht'⟩ := memRead_complete h.quiet'.answered a
  obtain ⟨d, q⟩ := memRead_didRead ht
  obtain ⟨d', q'⟩ := memRead_didRead ht'
  obtain ⟨e, hr⟩ := agree_readsOnly h d.1 d'.1
  have ev : v' = v := by rw [q' h.quiet', q h.quiet, h.view a]
  exact ⟨v, t, t'.bus, ht, by rw [ht', ev, ← e], hr⟩

theorem memFetch_sim {s : State} {b : Bus} (h : Agree s b) (a : Addr) :
    SimAtV (memFetch a s) (memFetch a { s with bus := b }) := by
  obtain ⟨v, t, ht⟩ := memFetch_complete h.quiet.answered a
  obtain ⟨v', t', ht'⟩ := memFetch_complete h.quiet'.answered a
  obtain ⟨d, q, -⟩ := memFetch_readsOnly ht
  obtain ⟨d', q', -⟩ := memFetch_readsOnly ht'
  obtain ⟨e, hr⟩ := agree_readsOnly (s := { s with free := s.free + 1 }) (h.book rfl rfl rfl) d d'
  have ev : v' = v := by rw [q' h.quiet', q h.quiet, h.view a]
  exact ⟨v, t, t'.bus, ht, by rw [ht', ev, ← e], hr⟩

theorem memWrite_sim {s : State} {b : Bus} (h : Agree s b) (a : Addr) (v : Byte) :
    Agree (memWrite a v s) (memWrite a v { s with bus := b }).bus := by
  have h1 := memWrite_stored a v s
  have h2 := memWrite_stored a v { s with bus := b }
  refine ⟨rfl, h.host, h.disjoint, h1.quiet h.quiet, h2.quiet h.quiet', h.coherent.stored h1, h.coherent'.stored h2,
    ?_, fun x hx => ?_, fun x hx => ?_⟩
  · show (memWrite a v { s with bus := b }).bus.partner.lines = _
    rw [h2.partner, h1.partner]; exact h.lines
  · show (memWrite a v { s with bus := b }).bus.shadow.get x = _
    rw [h2.shadow, h1.shadow]
    have := h.shadow (a := x) hx
    simp [this]
  · show (memWrite a v { s with bus := b }).bus.partner.mem.get x = _
    rw [h2.partnerMem, h1.partnerMem]
    have hx' : s.cfg.romBase ≤ x := hx
    by_cases hxa : x = a
    · subst hxa
      have hp : ∀ l, classify s.cfg x l = .allExternal := fun l => by
        rw [classify_of_disjoint h.disjoint]; simp [hx']
      simp [State.policy, hp]
    · simp [hxa, h.rom hx']

theorem push_sim {s : State} {b : Bus} (h : Agree s b) (v : Byte) :
    Agree (push v s) (push v { s with bus := b }).bus := (memWrite_sim h _ v).book rfl rfl rfl

theorem pushWord_sim {s : State} {b : Bus} (h : Agree s b) (w : Addr) :
    Agree (pushWord w s) (pushWord w { s with bus := b }).bus := push_sim (push_sim h _) _

theorem amImp_sim {s : State} {b : Bus} (h : Agree s b) : SimAt (amImp s) (amImp { s with bus := b }) :=
  simAt_bind (memRead_sim h _) fun _ _ _ h => simAt_some h

theorem operandWord_sim {s : State} {b : Bus} (h : Agree s b) :
    SimAtV (operandWord s) (operandWord { s with bus := b }) :=
  simAtV_bind (memRead_sim h _) fun _ _ _ h => simAtV_bind (memRead_sim h _) fun _ _ _ h => simAtV_some h

theorem readWord_sim {s : State} {b : Bus} (h : Agree s b) (a : Addr) :
    SimAtV (readWord a s) (readWord a { s with bus := b }) :=
  simAtV_bind (memRead_sim h _) fun _ _ _ h => simAtV_bind (memRead_sim h _) fun _ _ _ h => simAtV_some h

theorem zeroPagePointer_sim {s : State} {b : Bus} (h : Agree s b) (z : Byte) :
    SimAtV (zeroPagePointer z s) (zeroPagePointer z { s with bus := b }) :=
  simAtV_bind (memRead_sim h _) fun _ _ _ h => simAtV_bind (memRead_sim h _) fun _ _ _ h => simAtV_some h

theorem zeroPageIndexed_sim {s : State} {b : Bus} (h : Agree s b) (i : Byte) :
    SimAtV (zeroPageIndexed i s) (zeroPageIndexed i { s with bus := b }) :=
  simAtV_bind (memRead_sim h _) fun _ _ _ h => simAtV_bind (memRead_sim h _) fun _ _ _ h => simAtV_some h

theorem indexed_sim {s : State} {b : Bus} (h : Agree s b) (base : Addr) (i : Byte) (k : AccessKind) :
    SimAtV (indexed base i k s) (indexed base i k { s with bus := b }) := by
  simp only [indexed]
  split
  · exact simAtV_some h
  · exact simAtV_bind (memRead_sim h _) fun _ _ _ h => simAtV_some h

theorem effAddr_sim {s : State} {b : Bus} (h : Agree s b) (m : AddrMode) (k : AccessKind) :
    SimAtV (effAddr m k s) (effAddr m k { s with bus := b }) := by
  cases m with
  | imm => exact simAtV_some h
  | zp => exact simAtV_bind (memRead_sim h _) fun _ _ _ h => simAtV_some h
  | zpx => exact zeroPageIndexed_sim h _
  | zpy => exact zeroPageIndexed_sim h _
  | abs => exact operandWord_sim h
  | abx => exact simAtV_bind (operandWord_sim h) fun _ _ _ h => indexed_sim h _ _ _
  | aby => exact simAtV_bind (operandWord_sim h) fun _ _ _ h => indexed_sim h _ _ _
  | izx =>
    exact simAtV_bind (memRead_sim h _) fun _ _ _ h => simAtV_bind (memRead_sim h _) fun _ _ _ h =>
      zeroPagePointer_sim h _
  | izy =>
    exact simAtV_bind (memRead_sim h _) fun _ _ _ h => simAtV_bind (zeroPagePointer_sim h _) fun _ _ _ h =>
      indexed_sim h _ _ _

theorem readOp_sim {s : State} {b : Bus} (h : Agree s b) (m : AddrMode) :
    SimAtV (readOp m s) (readOp m { s with bus := b }) :=
  simAtV_bind (effAddr_sim h m .read) fun _ _ _ h => memRead_sim h _

theorem writeOp_sim {s : State} {b : Bus} (h : Agree s b) (m : AddrMode) (v : Byte) :
    SimAt (writeOp m v s) (writeOp m v { s with bus := b }) :=
  simAt_bind (effAddr_sim h m .write) fun _ _ _ h => simAt_some (memWrite_sim h _ _)

theorem rmwOp_sim {s : State} {b : Bus} (h : Agree s b) (m : AddrMode) (f : ByteOp) :
    SimAtV (rmwOp m f s) (rmwOp m f { s with bus := b }) :=
  simAtV_bind (effAddr_sim h m .rmw) fun ea _ _ h => simAtV_bind (memRead_sim h _) fun old u _ h =>
    simAtV_some (memWrite_sim ((memWrite_sim h ea old).regs { u.cpu with p := (f old u.cpu.p).2 }) ea
      (f old u.cpu.p).1)

theorem pull_sim {s : State} {b : Bus} (h : Agree s b) : SimAtV (pull s) (pull { s with bus := b }) :=
  memRead_sim (h.regs { s.cpu with sp := s.cpu.sp + 1 }) _

theorem pullWord_sim {s : State} {b : Bus} (h : Agree s b) : SimAtV (pullWord s) (pullWord { s with bus := b }) :=
  simAtV_bind (pull_sim h) fun _ _ _ h => simAtV_bind (pull_sim h) fun _ _ _ h => simAtV_some h

theorem takeException_sim {s : State} {b : Bus} (h : Agree s b) (ret : Addr) (brk : Bool) (vec : Addr) :
    SimAt (takeException ret brk vec s) (takeException ret brk vec { s with bus := b }) :=
  simAt_bind (readWord_sim (push_sim (pushWord_sim (h.regs (s.setFlag .b brk).cpu) ret) _) vec) fun _ _ _ h =>
    simAt_some (h.regs _)

theorem returnFromException_sim {s : State} {b : Bus} (h : Agree s b) :
    SimAt (returnFromException s) (returnFromException { s with bus := b }) :=
  simAt_bind (pull_sim h) fun v t _ h => simAt_bind (pullWord_sim (h.regs (t.setP (flagsFrom v)).cpu)) fun _ _ _ h =>
    simAt_some (h.regs _)

theorem readAll_sim {s : State} {b : Bus} (h : Agree s b) (l : List Addr) :
    SimAt (readAll l s) (readAll l { s with bus := b }) := by
  induction l generalizing s b with
  | nil => exact simAt_some h
  | cons a l ih => exact simAt_bind (memRead_sim h a) fun _ _ _ h => ih h

theorem interrupt_sim {s : State} {b : Bus} (h : Agree s b) (vec : Addr) :
    SimAt (interrupt vec s) (interrupt vec { s with bus := b }) :=
  simAt_bind (memRead_sim h _) fun _ _ _ h => simAt_bind (memRead_sim h _) fun _ _ _ h =>
    simAt_bind' (takeException_sim h _ _ _) fun _ _ h => simAt_some (h.book rfl rfl rfl)

theorem resetSequence_sim {s : State} {b : Bus} (h : Agree s b) :
    SimAt (resetSequence s) (resetSequence { s with bus := b }) :=
  simAt_bind' (readAll_sim h _) fun _ _ h => simAt_bind (readWord_sim h _) fun _ _ _ h =>
    simAt_some (h.book rfl rfl rfl)

/-! ### The meanings -/

theorem lda_sim {s : State} {b : Bus} (h : Agree s b) (m : AddrMode) :
    SimAt (lda m s) (lda m { s with bus := b }) :=
  simAt_bind (readOp_sim h m) fun _ _ _ h => simAt_some (h.regs _)

theorem ldx_sim {s : State} {b : Bus} (h : Agree s b) (m : AddrMode) :
    SimAt (ldx m s) (ldx m { s with bus := b }) :=
  simAt_bind (readOp_sim h m) fun _ _ _ h => simAt_some (h.regs _)

theorem ldy_sim {s : State} {b : Bus} (h : Agree s b) (m : AddrMode) :
    SimAt (ldy m s) (ldy m { s with bus := b }) :=
  simAt_bind (readOp_sim h m) fun _ _ _ h => simAt_some (h.regs _)

theorem ora_sim {s : State} {b : Bus} (h : Agree s b) (m : AddrMode) :
    SimAt (ora m s) (ora m { s with bus := b }) :=
  simAt_bind (readOp_sim h m) fun _ _ _ h => simAt_some (h.regs _)

theorem andA_sim {s : State} {b : Bus} (h : Agree s b) (m : AddrMode) :
    SimAt (andA m s) (andA m { s with bus := b }) :=
  simAt_bind (readOp_sim h m) fun _ _ _ h => simAt_some (h.regs _)

theorem eor_sim {s : State} {b : Bus} (h : Agree s b) (m : AddrMode) :
    SimAt (eor m s) (eor m { s with bus := b }) :=
  simAt_bind (readOp_sim h m) fun _ _ _ h => simAt_some (h.regs _)

theorem adc_sim {s : State} {b : Bus} (h : Agree s b) (m : AddrMode) :
    SimAt (adc m s) (adc m { s with bus := b }) :=
  simAt_bind (readOp_sim h m) fun _ _ _ h => simAt_some (h.regs _)

theorem sbc_sim {s : State} {b : Bus} (h : Agree s b) (m : AddrMode) :
    SimAt (sbc m s) (sbc m { s with bus := b }) :=
  simAt_bind (readOp_sim h m) fun _ _ _ h => simAt_some (h.regs _)

theorem cmpA_sim {s : State} {b : Bus} (h : Agree s b) (m : AddrMode) :
    SimAt (cmpA m s) (cmpA m { s with bus := b }) :=
  simAt_bind (readOp_sim h m) fun _ _ _ h => simAt_some (h.regs _)

theorem cpx_sim {s : State} {b : Bus} (h : Agree s b) (m : AddrMode) :
    SimAt (cpx m s) (cpx m { s with bus := b }) :=
  simAt_bind (readOp_sim h m) fun _ _ _ h => simAt_some (h.regs _)

theorem cpy_sim {s : State} {b : Bus} (h : Agree s b) (m : AddrMode) :
    SimAt (cpy m s) (cpy m { s with bus := b }) :=
  simAt_bind (readOp_sim h m) fun _ _ _ h => simAt_some (h.regs _)

theorem bitTest_sim {s : State} {b : Bus} (h : Agree s b) (m : AddrMode) :
    SimAt (bitTest m s) (bitTest m { s with bus := b }) :=
  simAt_bind (readOp_sim h m) fun _ _ _ h => simAt_some (h.regs _)

theorem lax_sim {s : State} {b : Bus} (h : Agree s b) (m : AddrMode) :
    SimAt (lax m s) (lax m { s with bus := b }) :=
  simAt_bind (readOp_sim h m) fun _ _ _ h => simAt_some (h.regs _)

theorem nopRead_sim {s : State} {b : Bus} (h : Agree s b) (m : AddrMode) :
    SimAt (nopRead m s) (nopRead m { s with bus := b }) :=
  simAt_bind (readOp_sim h m) fun _ _ _ h => simAt_some (h.regs _)

theorem sta_sim {s : State} {b : Bus} (h : Agree s b) (m : AddrMode) :
    SimAt (sta m s) (sta m { s with bus := b }) :=
  simAt_bind' (writeOp_sim h m _) fun _ _ h => simAt_some (h.regs _)

theorem stx_sim {s : State} {b : Bus} (h : Agree s b) (m : AddrMode) :
    SimAt (stx m s) (stx m { s with bus := b }) :=
  simAt_bind' (writeOp_sim h m _) fun _ _ h => simAt_some (h.regs _)

theorem sty_sim {s : State} {b : Bus} (h : Agree s b) (m : AddrMode) :
    SimAt (sty m s) (sty m { s with bus := b }) :=
  simAt_bind' (writeOp_sim h m _) fun _ _ h => simAt_some (h.regs _)

theorem sax_sim {s : State} {b : Bus} (h : Agree s b) (m : AddrMode) :
    SimAt (sax m s) (sax m { s with bus := b }) :=
  simAt_bind' (writeOp_sim h m _) fun _ _ h => simAt_some (h.regs _)

theorem tax_sim {s : State} {b : Bus} (h : Agree s b) : SimAt (tax s) (tax { s with bus := b }) :=
  simAt_bind' (amImp_sim h) fun _ _ h => simAt_some (h.regs _)

theorem tay_sim {s : State} {b : Bus} (h : Agree s b) : SimAt (tay s) (tay { s with bus := b }) :=
  simAt_bind' (amImp_sim h) fun _ _ h => simAt_some (h.regs _)

theorem txa_sim {s : State} {b : Bus} (h : Agree s b) : SimAt (txa s) (txa { s with bus := b }) :=
  simAt_bind' (amImp_sim h) fun _ _ h => simAt_some (h.regs _)

theorem tya_sim {s : State} {b : Bus} (h : Agree s b) : SimAt (tya s) (tya { s with bus := b }) :=
  simAt_bind' (amImp_sim h) fun _ _ h => simAt_some (h.regs _)

theorem tsx_sim {s : State} {b : Bus} (h : Agree s b) : SimAt (tsx s) (tsx { s with bus := b }) :=
  simAt_bind' (amImp_sim h) fun _ _ h => simAt_some (h.regs _)

theorem txs_sim {s : State} {b : Bus} (h : Agree s b) : SimAt (txs s) (txs { s with bus := b }) :=
  simAt_bind' (amImp_sim h) fun _ _ h => simAt_some (h.regs _)

theorem nopImplied_sim {s : State} {b : Bus} (h : Agree s b) : SimAt (nopImplied s) (nopImplied { s with bus := b }) :=
  simAt_bind' (amImp_sim h) fun _ _ h => simAt_some (h.regs _)

theorem inx_sim {s : State} {b : Bus} (h : Agree s b) : SimAt (inx s) (inx { s with bus := b }) :=
  simAt_bind' (amImp_sim h) fun _ _ h => simAt_some (h.regs _)

theorem iny_sim {s : State} {b : Bus} (h : Agree s b) : SimAt (iny s) (iny { s with bus := b }) :=
  simAt_bind' (amImp_sim h) fun _ _ h => simAt_some (h.regs _)

theorem dex_sim {s : State} {b : Bus} (h : Agree s b) : SimAt (dex s) (dex { s with bus := b }) :=
  simAt_bind' (amImp_sim h) fun _ _ h => simAt_some (h.regs _)

theorem dey_sim {s : State} {b : Bus} (h : Agree s b) : SimAt (dey s) (dey { s with bus := b }) :=
  simAt_bind' (amImp_sim h) fun _ _ h => simAt_some (h.regs _)

theorem shiftAcc_sim {s : State} {b : Bus} (h : Agree s b) (f : ByteOp) :
    SimAt (shiftAcc f s) (shiftAcc f { s with bus := b }) :=
  simAt_bind' (amImp_sim h) fun _ _ h => simAt_some (h.regs _)

theorem writeFlag_sim {s : State} {b : Bus} (h : Agree s b) (f : Flag) (on : Bool) :
    SimAt (writeFlag f on s) (writeFlag f on { s with bus := b }) :=
  simAt_bind' (amImp_sim h) fun _ _ h => simAt_some (h.regs _)

theorem modifyMem_sim {s : State} {b : Bus} (h : Agree s b) (m : AddrMode) (f : ByteOp) :
    SimAt (modifyMem m f s) (modifyMem m f { s with bus := b }) :=
  simAt_bind (rmwOp_sim h m f) fun _ _ _ h => simAt_some (h.regs _)

theorem slo_sim {s : State} {b : Bus} (h : Agree s b) (m : AddrMode) :
    SimAt (slo m s) (slo m { s with bus := b }) :=
  simAt_bind (rmwOp_sim h m _) fun _ _ _ h => simAt_some (h.regs _)

theorem rla_sim {s : State} {b : Bus} (h : Agree s b) (m : AddrMode) :
    SimAt (rla m s) (rla m { s with bus := b }) :=
  simAt_bind (rmwOp_sim h m _) fun _ _ _ h => simAt_some (h.regs _)

theorem sre_sim {s : State} {b : Bus} (h : Agree s b) (m : AddrMode) :
    SimAt (sre m s) (sre m { s with bus := b }) :=
  simAt_bind (rmwOp_sim h m _) fun _ _ _ h => simAt_some (h.regs _)

theorem rra_sim {s : State} {b : Bus} (h : Agree s b) (m : AddrMode) :
    SimAt (rra m s) (rra m { s with bus := b }) :=
  simAt_bind (rmwOp_sim h m _) fun _ _ _ h => simAt_some (h.regs _)

theorem dcp_sim {s : State} {b : Bus} (h : Agree s b) (m : AddrMode) :
    SimAt (dcp m s) (dcp m { s with bus := b }) :=
  simAt_bind (rmwOp_sim h m _) fun _ _ _ h => simAt_some (h.regs _)

theorem isc_sim {s : State} {b : Bus} (h : Agree s b) (m : AddrMode) :
    SimAt (isc m s) (isc m { s with bus := b }) :=
  simAt_bind (rmwOp_sim h m _) fun _ _ _ h => simAt_some (h.regs _)

theorem anc_sim {s : State} {b : Bus} (h : Agree s b) : SimAt (anc s) (anc { s with bus := b }) :=
  simAt_bind (readOp_sim h _) fun _ _ _ h => simAt_some (h.regs _)

theorem alr_sim {s : State} {b : Bus} (h : Agree s b) : SimAt (alr s) (alr { s with bus := b }) :=
  simAt_bind (readOp_sim h _) fun _ _ _ h => simAt_some (h.regs _)

theorem sbx_sim {s : State} {b : Bus} (h : Agree s b) : SimAt (sbx s) (sbx { s with bus := b }) :=
  simAt_bind (readOp_sim h _) fun _ _ _ h => simAt_some (h.regs _)

theorem las_sim {s : State} {b : Bus} (h : Agree s b) : SimAt (las s) (las { s with bus := b }) :=
  simAt_bind (readOp_sim h _) fun _ _ _ h => simAt_some (h.regs _)

theorem arr_sim {s : State} {b : Bus} (h : Agree s b) : SimAt (arr s) (arr { s with bus := b }) :=
  simAt_bind (readOp_sim h _) fun _ t b h => by
    simp only [show ({ t with bus := b } : State).flag .d = t.flag .d from rfl]
    split
    · exact simAt_some (h.book rfl rfl rfl)
    · exact simAt_some (h.regs _)

theorem unstableNop2_sim {s : State} {b : Bus} (h : Agree s b) :
    SimAt (unstableNop2 s) (unstableNop2 { s with bus := b }) :=
  simAt_bind (memRead_sim h _) fun _ _ _ h => simAt_some (h.regs _)

theorem unstableNop3_sim {s : State} {b : Bus} (h : Agree s b) :
    SimAt (unstableNop3 s) (unstableNop3 { s with bus := b }) :=
  simAt_bind (operandWord_sim h) fun _ _ _ h => simAt_some (h.regs _)

theorem lxa_sim {s : State} {b : Bus} (h : Agree s b) : SimAt (lxa s) (lxa { s with bus := b }) := by
  simp only [lxa]
  cases s.cfg.lxa with
  | nop2 => exact unstableNop2_sim h
  | laxImm => exact lax_sim h _

theorem branch_sim {s : State} {b : Bus} (h : Agree s b) (c : Bool) :
    SimAt (branch c s) (branch c { s with bus := b }) :=
  simAt_bind (memRead_sim h _) fun d _ _ h => by
    dsimp only
    split
    · refine simAt_bind (memRead_sim h _) fun _ _ _ h => ?_
      dsimp only
      split
      · exact simAt_some (h.regs _)
      · exact simAt_bind (memRead_sim h _) fun _ _ _ h => simAt_some (h.regs _)
    · exact simAt_some (h.regs _)

theorem jmp_sim {s : State} {b : Bus} (h : Agree s b) : SimAt (jmp s) (jmp { s with bus := b }) :=
  simAt_bind (operandWord_sim h) fun _ _ _ h => simAt_some (h.regs _)

theorem jmpIndirect_sim {s : State} {b : Bus} (h : Agree s b) :
    SimAt (jmpIndirect s) (jmpIndirect { s with bus := b }) :=
  simAt_bind (operandWord_sim h) fun _ _ _ h => simAt_bind (memRead_sim h _) fun _ _ _ h =>
    simAt_bind (memRead_sim h _) fun _ _ _ h => simAt_some (h.regs _)

theorem jsr_sim {s : State} {b : Bus} (h : Agree s b) : SimAt (jsr s) (jsr { s with bus := b }) :=
  simAt_bind (memRead_sim h _) fun _ _ _ h => simAt_bind (memRead_sim h _) fun _ _ _ h =>
    simAt_bind (memRead_sim (pushWord_sim h _) _) fun _ _ _ h => simAt_some (h.regs _)

theorem rts_sim {s : State} {b : Bus} (h : Agree s b) : SimAt (rts s) (rts { s with bus := b }) :=
  simAt_bind' (amImp_sim h) fun _ _ h => simAt_bind (memRead_sim h _) fun _ _ _ h =>
    simAt_bind (pullWord_sim h) fun _ _ _ h => simAt_bind (memRead_sim h _) fun _ _ _ h => simAt_some (h.regs _)

theorem pha_sim {s : State} {b : Bus} (h : Agree s b) : SimAt (pha s) (pha { s with bus := b }) :=
  simAt_bind' (amImp_sim h) fun _ _ h => simAt_some ((push_sim h _).regs _)

theorem php_sim {s : State} {b : Bus} (h : Agree s b) : SimAt (php s) (php { s with bus := b }) :=
  simAt_bind' (amImp_sim h) fun _ _ h => simAt_some ((push_sim h _).regs _)

theorem pla_sim {s : State} {b : Bus} (h : Agree s b) : SimAt (pla s) (pla { s with bus := b }) :=
  simAt_bind' (amImp_sim h) fun _ _ h => simAt_bind (memRead_sim h _) fun _ _ _ h =>
    simAt_bind (pull_sim h) fun _ _ _ h => simAt_some (h.regs _)

theorem plp_sim {s : State} {b : Bus} (h : Agree s b) : SimAt (plp s) (plp { s with bus := b }) :=
  simAt_bind' (amImp_sim h) fun _ _ h => simAt_bind (memRead_sim h _) fun _ _ _ h =>
    simAt_bind (pull_sim h) fun _ _ _ h => simAt_some (h.regs _)

theorem brk_sim {s : State} {b : Bus} (h : Agree s b) : SimAt (brk s) (brk { s with bus := b }) :=
  simAt_bind' (amImp_sim h) fun _ _ h => takeException_sim h _ _ _

theorem rti_sim {s : State} {b : Bus} (h : Agree s b) : SimAt (rti s) (rti { s with bus := b }) :=
  simAt_bind' (amImp_sim h) fun _ _ h => simAt_bind (memRead_sim h _) fun _ _ _ h => returnFromException_sim h

theorem jam_sim {s : State} {b : Bus} (h : Agree s b) : SimAt (jam s) (jam { s with bus := b }) :=
  simAt_some (t := s.setSched { s.sched with halted := true }) (h.book rfl rfl rfl)

/-- Every instruction completes in both states, in states that agree again. -/
theorem exec_sim {s : State} {b : Bus} (h : Agree s b) (i : Instr) :
    ∃ r r', SimAt r r' ∧ exec i s = complete r ∧ exec i { s with bus := b } = complete r' := by
  cases i with
  | brk => exact ⟨_, _, brk_sim h, rfl, rfl⟩
  | oraIzx => exact ⟨_, _, ora_sim h .izx, rfl, rfl⟩
  | jam02 => exact ⟨_, _, jam_sim h, rfl, rfl⟩
  | sloIzx => exact ⟨_, _, slo_sim h .izx, rfl, rfl⟩
  | nop04 => exact ⟨_, _, nopRead_sim h .zp, rfl, rfl⟩
  | oraZp => exact ⟨_, _, ora_sim h .zp, rfl, rfl⟩
  | aslZp => exact ⟨_, _, modifyMem_sim h .zp aslOp, rfl, rfl⟩
  | sloZp => exact ⟨_, _, slo_sim h .zp, rfl, rfl⟩
  | php => exact ⟨_, _, php_sim h, rfl, rfl⟩
  | oraImm => exact ⟨_, _, ora_sim h .imm, rfl, rfl⟩
  | aslAcc => exact ⟨_, _, shiftAcc_sim h aslOp, rfl, rfl⟩
  | anc0B => exact ⟨_, _, anc_sim h, rfl, rfl⟩
  | nop0C => exact ⟨_, _, nopRead_sim h .abs, rfl, rfl⟩
  | oraAbs => exact ⟨_, _, ora_sim h .abs, rfl, rfl⟩
  | aslAbs => exact ⟨_, _, modifyMem_sim h .abs aslOp, rfl, rfl⟩
  | sloAbs => exact ⟨_, _, slo_sim h .abs, rfl, rfl⟩
  | bpl => exact ⟨_, _, branch_sim h _, rfl, rfl⟩
  | oraIzy => exact ⟨_, _, ora_sim h .izy, rfl, rfl⟩
  | jam12 => exact ⟨_, _, jam_sim h, rfl, rfl⟩
  | sloIzy => exact ⟨_, _, slo_sim h .izy, rfl, rfl⟩
  | nop14 => exact ⟨_, _, nopRead_sim h .zpx, rfl, rfl⟩
  | oraZpx => exact ⟨_, _, ora_sim h .zpx, rfl, rfl⟩
  | aslZpx => exact ⟨_, _, modifyMem_sim h .zpx aslOp, rfl, rfl⟩
  | sloZpx => exact ⟨_, _, slo_sim h .zpx, rfl, rfl⟩
  | clc => exact ⟨_, _, writeFlag_sim h _ _, rfl, rfl⟩
  | oraAby => exact ⟨_, _, ora_sim h .aby, rfl, rfl⟩
  | nop1A => exact ⟨_, _, nopImplied_sim h, rfl, rfl⟩
  | sloAby => exact ⟨_, _, slo_sim h .aby, rfl, rfl⟩
  | nop1C => exact ⟨_, _, nopRead_sim h .abx, rfl, rfl⟩
  | oraAbx => exact ⟨_, _, ora_sim h .abx, rfl, rfl⟩
  | aslAbx => exact ⟨_, _, modifyMem_sim h .abx aslOp, rfl, rfl⟩
  | sloAbx => exact ⟨_, _, slo_sim h .abx, rfl, rfl⟩
  | jsr => exact ⟨_, _, jsr_sim h, rfl, rfl⟩
  | andIzx => exact ⟨_, _, andA_sim h .izx, rfl, rfl⟩
  | jam22 => exact ⟨_, _, jam_sim h, rfl, rfl⟩
  | rlaIzx => exact ⟨_, _, rla_sim h .izx, rfl, rfl⟩
  | bitZp => exact ⟨_, _, bitTest_sim h .zp, rfl, rfl⟩
  | andZp => exact ⟨_, _, andA_sim h .zp, rfl, rfl⟩
  | rolZp => exact ⟨_, _, modifyMem_sim h .zp rolOp, rfl, rfl⟩
  | rlaZp => exact ⟨_, _, rla_sim h .zp, rfl, rfl⟩
  | plp => exact ⟨_, _, plp_sim h, rfl, rfl⟩
  | andImm => exact ⟨_, _, andA_sim h .imm, rfl, rfl⟩
  | rolAcc => exact ⟨_, _, shiftAcc_sim h rolOp, rfl, rfl⟩
  | anc2B => exact ⟨_, _, anc_sim h, rfl, rfl⟩
  | bitAbs => exact ⟨_, _, bitTest_sim h .abs, rfl, rfl⟩
  | andAbs => exact ⟨_, _, andA_sim h .abs, rfl, rfl⟩
  | rolAbs => exact ⟨_, _, modifyMem_sim h .abs rolOp, rfl, rfl⟩
  | rlaAbs => exact ⟨_, _, rla_sim h .abs, rfl, rfl⟩
  | bmi => exact ⟨_, _, branch_sim h _, rfl, rfl⟩
  | andIzy => exact ⟨_, _, andA_sim h .izy, rfl, rfl⟩
  | jam32 => exact ⟨_, _, jam_sim h, rfl, rfl⟩
  | rlaIzy => exact ⟨_, _, rla_sim h .izy, rfl, rfl⟩
  | nop34 => exact ⟨_, _, nopRead_sim h .zpx, rfl, rfl⟩
  | andZpx => exact ⟨_, _, andA_sim h .zpx, rfl, rfl⟩
  | rolZpx => exact ⟨_, _, modifyMem_sim h .zpx rolOp, rfl, rfl⟩
  | rlaZpx => exact ⟨_, _, rla_sim h .zpx, rfl, rfl⟩
  | sec => exact ⟨_, _, writeFlag_sim h _ _, rfl, rfl⟩
  | andAby => exact ⟨_, _, andA_sim h .aby, rfl, rfl⟩
  | nop3A => exact ⟨_, _, nopImplied_sim h, rfl, rfl⟩
  | rlaAby => exact ⟨_, _, rla_sim h .aby, rfl, rfl⟩
  | nop3C => exact ⟨_, _, nopRead_sim h .abx, rfl, rfl⟩
  | andAbx => exact ⟨_, _, andA_sim h .abx, rfl, rfl⟩
  | rolAbx => exact ⟨_, _, modifyMem_sim h .abx rolOp, rfl, rfl⟩
  | rlaAbx => exact ⟨_, _, rla_sim h .abx, rfl, rfl⟩
  | rti => exact ⟨_, _, rti_sim h, rfl, rfl⟩
  | eorIzx => exact ⟨_, _, eor_sim h .izx, rfl, rfl⟩
  | jam42 => exact ⟨_, _, jam_sim h, rfl, rfl⟩
  | sreIzx => exact ⟨_, _, sre_sim h .izx, rfl, rfl⟩
  | nop44 => exact ⟨_, _, nopRead_sim h .zp, rfl, rfl⟩
  | eorZp => exact ⟨_, _, eor_sim h .zp, rfl, rfl⟩
  | lsrZp => exact ⟨_, _, modifyMem_sim h .zp lsrOp, rfl, rfl⟩
  | sreZp => exact ⟨_, _, sre_sim h .zp, rfl, rfl⟩
  | pha => exact ⟨_, _, pha_sim h, rfl, rfl⟩
  | eorImm => exact ⟨_, _, eor_sim h .imm, rfl, rfl⟩
  | lsrAcc => exact ⟨_, _, shiftAcc_sim h lsrOp, rfl, rfl⟩
  | alrImm => exact ⟨_, _, alr_sim h, rfl, rfl⟩
  | jmpAbs => exact ⟨_, _, jmp_sim h, rfl, rfl⟩
  | eorAbs => exact ⟨_, _, eor_sim h .abs, rfl, rfl⟩
  | lsrAbs => exact ⟨_, _, modifyMem_sim h .abs lsrOp, rfl, rfl⟩
  | sreAbs => exact ⟨_, _, sre_sim h .abs, rfl, rfl⟩
  | bvc => exact ⟨_, _, branch_sim h _, rfl, rfl⟩
  | eorIzy => exact ⟨_, _, eor_sim h .izy, rfl, rfl⟩
  | jam52 => exact ⟨_, _, jam_sim h, rfl, rfl⟩
  | sreIzy => exact ⟨_, _, sre_sim h .izy, rfl, rfl⟩
  | nop54 => exact ⟨_, _, nopRead_sim h .zpx, rfl, rfl⟩
  | eorZpx => exact ⟨_, _, eor_sim h .zpx, rfl, rfl⟩
  | lsrZpx => exact ⟨_, _, modifyMem_sim h .zpx lsrOp, rfl, rfl⟩
  | sreZpx => exact ⟨_, _, sre_sim h .zpx, rfl, rfl⟩
  | cli => exact ⟨_, _, writeFlag_sim h _ _, rfl, rfl⟩
  | eorAby => exact ⟨_, _, eor_sim h .aby, rfl, rfl⟩
  | nop5A => exact ⟨_, _, nopImplied_sim h, rfl, rfl⟩
  | sreAby => exact ⟨_, _, sre_sim h .aby, rfl, rfl⟩
  | nop5C => exact ⟨_, _, nopRead_sim h .abx, rfl, rfl⟩
  | eorAbx => exact ⟨_, _, eor_sim h .abx, rfl, rfl⟩
  | lsrAbx => exact ⟨_, _, modifyMem_sim h .abx lsrOp, rfl, rfl⟩
  | sreAbx => exact ⟨_, _, sre_sim h .abx, rfl, rfl⟩
  | rts => exact ⟨_, _, rts_sim h, rfl, rfl⟩
  | adcIzx => exact ⟨_, _, adc_sim h .izx, rfl, rfl⟩
  | jam62 => exact ⟨_, _, jam_sim h, rfl, rfl⟩
  | rraIzx => exact ⟨_, _, rra_sim h .izx, rfl, rfl⟩
  | nop64 => exact ⟨_, _, nopRead_sim h .zp, rfl, rfl⟩
  | adcZp => exact ⟨_, _, adc_sim h .zp, rfl, rfl⟩
  | rorZp => exact ⟨_, _, modifyMem_sim h .zp rorOp, rfl, rfl⟩
  | rraZp => exact ⟨_, _, rra_sim h .zp, rfl, rfl⟩
  | pla => exact ⟨_, _, pla_sim h, rfl, rfl⟩
  | adcImm => exact ⟨_, _, adc_sim h .imm, rfl, rfl⟩
  | rorAcc => exact ⟨_, _, shiftAcc_sim h rorOp, rfl, rfl⟩
  | arrImm => exact ⟨_, _, arr_sim h, rfl, rfl⟩
  | jmpInd => exact ⟨_, _, jmpIndirect_sim h, rfl, rfl⟩
  | adcAbs => exact ⟨_, _, adc_sim h .abs, rfl, rfl⟩
  | rorAbs => exact ⟨_, _, modifyMem_sim h .abs rorOp, rfl, rfl⟩
  | rraAbs => exact ⟨_, _, rra_sim h .abs, rfl, rfl⟩
  | bvs => exact ⟨_, _, branch_sim h _, rfl, rfl⟩
  | adcIzy => exact ⟨_, _, adc_sim h .izy, rfl, rfl⟩
  | jam72 => exact ⟨_, _, jam_sim h, rfl, rfl⟩
  | rraIzy => exact ⟨_, _, rra_sim h .izy, rfl, rfl⟩
  | nop74 => exact ⟨_, _, nopRead_sim h .zpx, rfl, rfl⟩
  | adcZpx => exact ⟨_, _, adc_sim h .zpx, rfl, rfl⟩
  | rorZpx => exact ⟨_, _, modifyMem_sim h .zpx rorOp, rfl, rfl⟩
  | rraZpx => exact ⟨_, _, rra_sim h .zpx, rfl, rfl⟩
  | sei => exact ⟨_, _, writeFlag_sim h _ _, rfl, rfl⟩
  | adcAby => exact ⟨_, _, adc_sim h .aby, rfl, rfl⟩
  | nop7A => exact ⟨_, _, nopImplied_sim h, rfl, rfl⟩
  | rraAby => exact ⟨_, _, rra_sim h .aby, rfl, rfl⟩
  | nop7C => exact ⟨_, _, nopRead_sim h .abx, rfl, rfl⟩
  | adcAbx => exact ⟨_, _, adc_sim h .abx, rfl, rfl⟩
  | rorAbx => exact ⟨_, _, modifyMem_sim h .abx rorOp, rfl, rfl⟩
  | rraAbx => exact ⟨_, _, rra_sim h .abx, rfl, rfl⟩
  | nop80 => exact ⟨_, _, nopRead_sim h .imm, rfl, rfl⟩
  | staIzx => exact ⟨_, _, sta_sim h .izx, rfl, rfl⟩
  | nop82 => exact ⟨_, _, nopRead_sim h .imm, rfl, rfl⟩
  | saxIzx => exact ⟨_, _, sax_sim h .izx, rfl, rfl⟩
  | styZp => exact ⟨_, _, sty_sim h .zp, rfl, rfl⟩
  | staZp => exact ⟨_, _, sta_sim h .zp, rfl, rfl⟩
  | stxZp => exact ⟨_, _, stx_sim h .zp, rfl, rfl⟩
  | saxZp => exact ⟨_, _, sax_sim h .zp, rfl, rfl⟩
  | dey => exact ⟨_, _, dey_sim h, rfl, rfl⟩
  | nop89 => exact ⟨_, _, nopRead_sim h .imm, rfl, rfl⟩
  | txa => exact ⟨_, _, txa_sim h, rfl, rfl⟩
  | aneImm => exact ⟨_, _, unstableNop2_sim h, rfl, rfl⟩
  | styAbs => exact ⟨_, _, sty_sim h .abs, rfl, rfl⟩
  | staAbs => exact ⟨_, _, sta_sim h .abs, rfl, rfl⟩
  | stxAbs => exact ⟨_, _, stx_sim h .abs, rfl, rfl⟩
  | saxAbs => exact ⟨_, _, sax_sim h .abs, rfl, rfl⟩
  | bcc => exact ⟨_, _, branch_sim h _, rfl, rfl⟩
  | staIzy => exact ⟨_, _, sta_sim h .izy, rfl, rfl⟩
  | jam92 => exact ⟨_, _, jam_sim h, rfl, rfl⟩
  | shaIzy => exact ⟨_, _, unstableNop2_sim h, rfl, rfl⟩
  | styZpx => exact ⟨_, _, sty_sim h .zpx, rfl, rfl⟩
  | staZpx => exact ⟨_, _, sta_sim h .zpx, rfl, rfl⟩
  | stxZpy => exact ⟨_, _, stx_sim h .zpy, rfl, rfl⟩
  | saxZpy => exact ⟨_, _, sax_sim h .zpy, rfl, rfl⟩
  | tya => exact ⟨_, _, tya_sim h, rfl, rfl⟩
  | staAby => exact ⟨_, _, sta_sim h .aby, rfl, rfl⟩
  | txs => exact ⟨_, _, txs_sim h, rfl, rfl⟩
  | tasAby => exact ⟨_, _, unstableNop3_sim h, rfl, rfl⟩
  | shyAbx => exact ⟨_, _, unstableNop3_sim h, rfl, rfl⟩
  | staAbx => exact ⟨_, _, sta_sim h .abx, rfl, rfl⟩
  | shxAby => exact ⟨_, _, unstableNop3_sim h, rfl, rfl⟩
  | shaAby => exact ⟨_, _, unstableNop3_sim h, rfl, rfl⟩
  | ldyImm => exact ⟨_, _, ldy_sim h .imm, rfl, rfl⟩
  | ldaIzx => exact ⟨_, _, lda_sim h .izx, rfl, rfl⟩
  | ldxImm => exact ⟨_, _, ldx_sim h .imm, rfl, rfl⟩
  | laxIzx => exact ⟨_, _, lax_sim h .izx, rfl, rfl⟩
  | ldyZp => exact ⟨_, _, ldy_sim h .zp, rfl, rfl⟩
  | ldaZp => exact ⟨_, _, lda_sim h .zp, rfl, rfl⟩
  | ldxZp => exact ⟨_, _, ldx_sim h .zp, rfl, rfl⟩
  | laxZp => exact ⟨_, _, lax_sim h .zp, rfl, rfl⟩
  | tay => exact ⟨_, _, tay_sim h, rfl, rfl⟩
  | ldaImm => exact ⟨_, _, lda_sim h .imm, rfl, rfl⟩
  | tax => exact ⟨_, _, tax_sim h, rfl, rfl⟩
  | lxaImm => exact ⟨_, _, lxa_sim h, rfl, rfl⟩
  | ldyAbs => exact ⟨_, _, ldy_sim h .abs, rfl, rfl⟩
  | ldaAbs => exact ⟨_, _, lda_sim h .abs, rfl, rfl⟩
  | ldxAbs => exact ⟨_, _, ldx_sim h .abs, rfl, rfl⟩
  | laxAbs => exact ⟨_, _, lax_sim h .abs, rfl, rfl⟩
  | bcs => exact ⟨_, _, branch_sim h _, rfl, rfl⟩
  | ldaIzy => exact ⟨_, _, lda_sim h .izy, rfl, rfl⟩
  | jamB2 => exact ⟨_, _, jam_sim h, rfl, rfl⟩
  | laxIzy => exact ⟨_, _, lax_sim h .izy, rfl, rfl⟩
  | ldyZpx => exact ⟨_, _, ldy_sim h .zpx, rfl, rfl⟩
  | ldaZpx => exact ⟨_, _, lda_sim h .zpx, rfl, rfl⟩
  | ldxZpy => exact ⟨_, _, ldx_sim h .zpy, rfl, rfl⟩
  | laxZpy => exact ⟨_, _, lax_sim h .zpy, rfl, rfl⟩
  | clv => exact ⟨_, _, writeFlag_sim h _ _, rfl, rfl⟩
  | ldaAby => exact ⟨_, _, lda_sim h .aby, rfl, rfl⟩
  | tsx => exact ⟨_, _, tsx_sim h, rfl, rfl⟩
  | lasAby => exact ⟨_, _, las_sim h, rfl, rfl⟩
  | ldyAbx => exact ⟨_, _, ldy_sim h .abx, rfl, rfl⟩
  | ldaAbx => exact ⟨_, _, lda_sim h .abx, rfl, rfl⟩
  | ldxAby => exact ⟨_, _, ldx_sim h .aby, rfl, rfl⟩
  | laxAby => exact ⟨_, _, lax_sim h .aby, rfl, rfl⟩
  | cpyImm => exact ⟨_, _, cpy_sim h .imm, rfl, rfl⟩
  | cmpIzx => exact ⟨_, _, cmpA_sim h .izx, rfl, rfl⟩
  | nopC2 => exact ⟨_, _, nopRead_sim h .imm, rfl, rfl⟩
  | dcpIzx => exact ⟨_, _, dcp_sim h .izx, rfl, rfl⟩
  | cpyZp => exact ⟨_, _, cpy_sim h .zp, rfl, rfl⟩
  | cmpZp => exact ⟨_, _, cmpA_sim h .zp, rfl, rfl⟩
  | decZp => exact ⟨_, _, modifyMem_sim h .zp decOp, rfl, rfl⟩
  | dcpZp => exact ⟨_, _, dcp_sim h .zp, rfl, rfl⟩
  | iny => exact ⟨_, _, iny_sim h, rfl, rfl⟩
  | cmpImm => exact ⟨_, _, cmpA_sim h .imm, rfl, rfl⟩
  | dex => exact ⟨_, _, dex_sim h, rfl, rfl⟩
  | sbxImm => exact ⟨_, _, sbx_sim h, rfl, rfl⟩
  | cpyAbs => exact ⟨_, _, cpy_sim h .abs, rfl, rfl⟩
  | cmpAbs => exact ⟨_, _, cmpA_sim h .abs, rfl, rfl⟩
  | decAbs => exact ⟨_, _, modifyMem_sim h .abs decOp, rfl, rfl⟩
  | dcpAbs => exact ⟨_, _, dcp_sim h .abs, rfl, rfl⟩
  | bne => exact ⟨_, _, branch_sim h _, rfl, rfl⟩
  | cmpIzy => exact ⟨_, _, cmpA_sim h .izy, rfl, rfl⟩
  | jamD2 => exact ⟨_, _, jam_sim h, rfl, rfl⟩
  | dcpIzy => exact ⟨_, _, dcp_sim h .izy, rfl, rfl⟩
  | nopD4 => exact ⟨_, _, nopRead_sim h .zpx, rfl, rfl⟩
  | cmpZpx => exact ⟨_, _, cmpA_sim h .zpx, rfl, rfl⟩
  | decZpx => exact ⟨_, _, modifyMem_sim h .zpx decOp, rfl, rfl⟩
  | dcpZpx => exact ⟨_, _, dcp_sim h .zpx, rfl, rfl⟩
  | cld => exact ⟨_, _, writeFlag_sim h _ _, rfl, rfl⟩
  | cmpAby => exact ⟨_, _, cmpA_sim h .aby, rfl, rfl⟩
  | nopDA => exact ⟨_, _, nopImplied_sim h, rfl, rfl⟩
  | dcpAby => exact ⟨_, _, dcp_sim h .aby, rfl, rfl⟩
  | nopDC => exact ⟨_, _, nopRead_sim h .abx, rfl, rfl⟩
  | cmpAbx => exact ⟨_, _, cmpA_sim h .abx, rfl, rfl⟩
  | decAbx => exact ⟨_, _, modifyMem_sim h .abx decOp, rfl, rfl⟩
  | dcpAbx => exact ⟨_, _, dcp_sim h .abx, rfl, rfl⟩
  | cpxImm => exact ⟨_, _, cpx_sim h .imm, rfl, rfl⟩
  | sbcIzx => exact ⟨_, _, sbc_sim h .izx, rfl, rfl⟩
  | nopE2 => exact ⟨_, _, nopRead_sim h .imm, rfl, rfl⟩
  | iscIzx => exact ⟨_, _, isc_sim h .izx, rfl, rfl⟩
  | cpxZp => exact ⟨_, _, cpx_sim h .zp, rfl, rfl⟩
  | sbcZp => exact ⟨_, _, sbc_sim h .zp, rfl, rfl⟩
  | incZp => exact ⟨_, _, modifyMem_sim h .zp incOp, rfl, rfl⟩
  | iscZp => exact ⟨_, _, isc_sim h .zp, rfl, rfl⟩
  | inx => exact ⟨_, _, inx_sim h, rfl, rfl⟩
  | sbcImm => exact ⟨_, _, sbc_sim h .imm, rfl, rfl⟩
  | nop => exact ⟨_, _, nopImplied_sim h, rfl, rfl⟩
  | sbcImmEB => exact ⟨_, _, sbc_sim h .imm, rfl, rfl⟩
  | cpxAbs => exact ⟨_, _, cpx_sim h .abs, rfl, rfl⟩
  | sbcAbs => exact ⟨_, _, sbc_sim h .abs, rfl, rfl⟩
  | incAbs => exact ⟨_, _, modifyMem_sim h .abs incOp, rfl, rfl⟩
  | iscAbs => exact ⟨_, _, isc_sim h .abs, rfl, rfl⟩
  | beq => exact ⟨_, _, branch_sim h _, rfl, rfl⟩
  | sbcIzy => exact ⟨_, _, sbc_sim h .izy, rfl, rfl⟩
  | jamF2 => exact ⟨_, _, jam_sim h, rfl, rfl⟩
  | iscIzy => exact ⟨_, _, isc_sim h .izy, rfl, rfl⟩
  | nopF4 => exact ⟨_, _, nopRead_sim h .zpx, rfl, rfl⟩
  | sbcZpx => exact ⟨_, _, sbc_sim h .zpx, rfl, rfl⟩
  | incZpx => exact ⟨_, _, modifyMem_sim h .zpx incOp, rfl, rfl⟩
  | iscZpx => exact ⟨_, _, isc_sim h .zpx, rfl, rfl⟩
  | sed => exact ⟨_, _, writeFlag_sim h _ _, rfl, rfl⟩
  | sbcAby => exact ⟨_, _, sbc_sim h .aby, rfl, rfl⟩
  | nopFA => exact ⟨_, _, nopImplied_sim h, rfl, rfl⟩
  | iscAby => exact ⟨_, _, isc_sim h .aby, rfl, rfl⟩
  | nopFC => exact ⟨_, _, nopRead_sim h .abx, rfl, rfl⟩
  | sbcAbx => exact ⟨_, _, sbc_sim h .abx, rfl, rfl⟩
  | incAbx => exact ⟨_, _, modifyMem_sim h .abx incOp, rfl, rfl⟩
  | iscAbx => exact ⟨_, _, isc_sim h .abx, rfl, rfl⟩

/-! ### The poll and the fetch -/

theorem Agree.nextLevels {s : State} {b : Bus} (h : Agree s b) :
    Machine.nextLevels { s with bus := b } = Machine.nextLevels s := by
  simp only [Machine.nextLevels]; rw [h.lines]

theorem poll_sim {s : State} {b : Bus} (h : Agree s b) : SimAt (poll s) (poll { s with bus := b }) := by
  have hl := h.nextLevels
  have hcp : consumePoll { s with bus := b } = { consumePoll s with bus := b } := by simp only [consumePoll, hl]
  have hr : resetTaken { s with bus := b } = resetTaken s := by simp only [resetTaken, hl]
  have hn : nmiEdge { s with bus := b } = nmiEdge s := by simp only [nmiEdge, hl]
  have hi : irqTaken { s with bus := b } = irqTaken s := by simp only [irqTaken, hl]; rfl
  have hA : Agree (consumePoll s) b := h.book rfl rfl rfl
  unfold poll
  rw [hcp, hr, hn, hi]
  by_cases h1 : resetTaken s = true
  · simp only [h1, if_true]
    exact simAt_some (t := (consumePoll s).setRunMode .resetting) (hA.book rfl rfl rfl)
  · by_cases h2 : nmiEdge s = true
    · simp only [h1, h2, if_true]; exact interrupt_sim hA _
    · by_cases h3 : irqTaken s = true
      · simp only [h1, h2, h3, if_true]; exact interrupt_sim hA _
      · simp only [h1, h2, h3]; exact simAt_some hA

theorem fetchOpcode_sim {s : State} {b : Bus} (h : Agree s b) :
    SimAtV (fetchOpcode s) (fetchOpcode { s with bus := b }) := by
  refine simAtV_bind (memFetch_sim h _) fun v t b h => ?_
  have hA : Agree (t.setSched { t.sched with ir := some v }) b := h.book rfl rfl rfl
  have he : ∀ u : State, traceFetch { u with bus := b } = { traceFetch u with bus := b } := by
    intro u
    by_cases hu : u.sched.traceEnable = true <;> simp [traceFetch, hu]
  have hf : ∀ u : State, (traceFetch u).bus = u.bus ∧ (traceFetch u).cfg = u.cfg ∧ (traceFetch u).host = u.host := by
    intro u
    by_cases hu : u.sched.traceEnable = true <;> simp [traceFetch, hu]
  refine ⟨v, traceFetch (t.setSched { t.sched with ir := some v }), b, rfl, ?_,
    hA.book (hf _).1 (hf _).2.1 (hf _).2.2⟩
  rw [← he]; rfl

end Sys2Proof.Machine
end

