-- ==== Sys2Proof/Tests/Slice0.lean ====
section
/-! SUPPORT. The model's own tests. The expected results are those of spec/95_test_vectors.md, which each test names, or
written out from the rule it names. After them, for every statement with hypotheses a concrete state that meets them. -/

namespace Sys2Proof.Tests

open Sys2Proof Sys2Proof.Machine

/-! ### Helpers -/

/-- Stores the cells of a list. -/
def poke (l : List (Addr × Byte)) (m : Memory) : Memory :=
  match l with
  | [] => m
  | (a, v) :: rest => poke rest (m.set a v)

/-- A running machine with the registers `cpu`, the bytes of an instruction at `PC`, and some other cells, the same in
the shadow memory and in the partner. -/
def start (cpu : Cpu) (bytes : List Byte) (cells : List (Addr × Byte)) : State :=
  let m := (poke cells []).setBlock cpu.pc bytes
  { State.reset with
    cpu := cpu
    bus := { State.reset.bus with shadow := m, partner := { samples := [], mem := m, lines := Lines.idle } } }

/-- The calls of a log in their order, each with its address and, for a write, the byte (spec/95 part 0). -/
def calls (l : List Access) : List (Addr × Option Byte) :=
  (l.map fun c => match c with
    | .read a _ _ _ => (a, none)
    | .write a v _ => (a, some v)).reverse

/-- The registers after one step and the calls it made, in a machine with an empty log. -/
def runs (s : State) : Option (Cpu × List (Addr × Option Byte)) :=
  match step s with
  | .next t => some (t.cpu, calls t.bus.log)
  | .fault _ => none
  | .refused _ => none

/-- A field of the state after one step. -/
def after {α : Type} (f : State → α) (s : State) : Option α :=
  match step s with
  | .next t => some (f t)
  | .fault _ => none
  | .refused _ => none

/-- A machine with nothing but zeros in memory, as after reset, at another address. -/
def plain (pc : Addr) : State := start ⟨0x00, 0x00, 0x00, 0xFF, 0x30, pc⟩ [] []

/-- The same machine at an acceleration level, with `0x11` in the shadow memory and `0x22` in the partner at `a`. -/
def levelled (l : AccelLevel) (a : Addr) : State :=
  { State.reset with
    bus := { State.reset.bus with
      accel := l, shadow := poke [(a, 0x11)] []
      partner := { samples := [], mem := poke [(a, 0x22)] [], lines := Lines.idle } } }

/-! ### Well-formedness -/

theorem test_wf_refuses_a_missing_operand_byte : (⟨.ldaAbs, [0x34]⟩ : Code).wf = false := by decide
theorem test_wf_refuses_an_operand_byte_too_many : (⟨.tax, [0x00]⟩ : Code).wf = false := by decide
theorem test_wf_accepts_an_operand : (⟨.ldaAbs, [0x34, 0x12]⟩ : Code).wf = true := by decide
theorem test_config_wf_refuses_overlapping_windows :
    ({ Config.default with dynWindows := [⟨0x0000, 0xC000⟩] } : Config).wf = false := by decide
theorem test_config_wf_refuses_reset_flags_without_bit_five :
    ({ Config.default with resetFlags := 0x14 } : Config).wf = false := by decide
theorem test_config_default_wf : Config.default.wf = true := by decide

/-! ### Decoding: words written out from the opcode matrix (30_encoding R112, R115), one or more of each family -/

theorem test_decode_lda_immediate : decode [0b10101001#8, 0x05] = .ok (⟨.ldaImm, [0x05]⟩, []) := by decide
theorem test_decode_sta_absolute : decode [0b10001101#8, 0x00, 0x20] = .ok (⟨.staAbs, [0x00, 0x20]⟩, []) := by decide
theorem test_decode_tsx : decode [0b10111010#8] = .ok (⟨.tsx, []⟩, []) := by decide
theorem test_decode_sbc_indirect_y : decode [0b11110001#8, 0x40] = .ok (⟨.sbcIzy, [0x40]⟩, []) := by decide
theorem test_decode_bit_absolute : decode [0b00101100#8, 0x34, 0x12] = .ok (⟨.bitAbs, [0x34, 0x12]⟩, []) := by decide
theorem test_decode_ror_zero_page_x : decode [0b01110110#8, 0x10] = .ok (⟨.rorZpx, [0x10]⟩, []) := by decide
theorem test_decode_bvs : decode [0b01110000#8, 0xFE] = .ok (⟨.bvs, [0xFE]⟩, []) := by decide
theorem test_decode_jmp_indirect : decode [0b01101100#8, 0xFF, 0x30] = .ok (⟨.jmpInd, [0xFF, 0x30]⟩, []) := by decide
theorem test_decode_jsr : decode [0b00100000#8, 0x00, 0x90] = .ok (⟨.jsr, [0x00, 0x90]⟩, []) := by decide
theorem test_decode_php : decode [0b00001000#8] = .ok (⟨.php, []⟩, []) := by decide
theorem test_decode_brk_takes_one_byte : decode [0b00000000#8, 0xAA] = .ok (⟨.brk, []⟩, [0xAA]) := by decide
theorem test_decode_isc_indirect_x : decode [0b11100011#8, 0x20] = .ok (⟨.iscIzx, [0x20]⟩, []) := by decide
theorem test_decode_jam : decode [0b01010010#8] = .ok (⟨.jam52, []⟩, []) := by decide
theorem test_decode_rejects_truncation : decode [0x4C, 0x00] = .error (.truncated .jmpAbs) := by decide
theorem test_decode_rejects_no_bytes : decode [] = .error .noOpcode := by decide
theorem test_decode_table_word : decodeTableWord 16 0x05A9 = some .ldaImm := by decide
theorem test_fetch_word_runs : runs (State.reset.withFetchWord 24 0x1234AD) =
    some (⟨0x00, 0x00, 0x00, 0x00, 0x36, 0x0003⟩,
      [(0x0000, none), (0x0001, none), (0x0002, none), (0x1234, none)]) := by decide

/-! ### One instruction, one step -/

/-- spec/95: AND #$0F. -/
theorem test_and_29 :
    runs (start ⟨0xF0, 0x00, 0x00, 0xFF, 0x30, 0x0800⟩ [0x29, 0x0F] []) =
      some (⟨0x00, 0x00, 0x00, 0xFF, 0x32, 0x0802⟩,
      [(0x0800, none), (0x0801, none)]) := by
  decide

/-- spec/95: ANE 8B. -/
theorem test_ane_8B :
    runs (start ⟨0x55, 0xAA, 0x00, 0xFF, 0x30, 0x0800⟩ [0x8B, 0xFF] []) =
      some (⟨0x55, 0xAA, 0x00, 0xFF, 0x30, 0x0802⟩,
      [(0x0800, none), (0x0801, none)]) := by
  decide

/-- spec/95: ASL $2000,X (RMW: dummy read always). -/
theorem test_asl_1E :
    runs (start ⟨0x00, 0x01, 0x00, 0xFF, 0x30, 0x0800⟩ [0x1E, 0x00, 0x20] [(0x2001, 0x40)]) =
      some (⟨0x00, 0x01, 0x00, 0xFF, 0xB0, 0x0803⟩,
      [(0x0800, none), (0x0801, none), (0x0802, none), (0x2001, none), (0x2001, none), (0x2001, some 0x40),
       (0x2001, some 0x80)]) := by
  decide

/-- spec/95: BCC +127 taken, cross. -/
theorem test_bcc_90 :
    runs (start ⟨0x00, 0x00, 0x00, 0xFF, 0x30, 0x08F0⟩ [0x90, 0x7F] []) =
      some (⟨0x00, 0x00, 0x00, 0xFF, 0x30, 0x0971⟩,
      [(0x08F0, none), (0x08F1, none), (0x08F2, none), (0x0871, none)]) := by
  decide

/-- spec/95: BCS -5 taken, cross. -/
theorem test_bcs_B0 :
    runs (start ⟨0x00, 0x00, 0x00, 0xFF, 0x31, 0x0900⟩ [0xB0, 0xFB] []) =
      some (⟨0x00, 0x00, 0x00, 0xFF, 0x31, 0x08FD⟩,
      [(0x0900, none), (0x0901, none), (0x0902, none), (0x09FD, none)]) := by
  decide

/-- spec/95: BEQ -4 taken. -/
theorem test_beq_F0 :
    runs (start ⟨0x00, 0x00, 0x00, 0xFF, 0x32, 0x0810⟩ [0xF0, 0xFC] []) =
      some (⟨0x00, 0x00, 0x00, 0xFF, 0x32, 0x080E⟩,
      [(0x0810, none), (0x0811, none), (0x0812, none)]) := by
  decide

/-- spec/95: BIT $10. -/
theorem test_bit_24 :
    runs (start ⟨0x3F, 0x00, 0x00, 0xFF, 0x30, 0x0800⟩ [0x24, 0x10] [(0x0010, 0xC0)]) =
      some (⟨0x3F, 0x00, 0x00, 0xFF, 0xF2, 0x0802⟩,
      [(0x0800, none), (0x0801, none), (0x0010, none)]) := by
  decide

/-- spec/95: BMI -128 taken, same page. -/
theorem test_bmi_30 :
    runs (start ⟨0x00, 0x00, 0x00, 0xFF, 0xB0, 0x0880⟩ [0x30, 0x80] []) =
      some (⟨0x00, 0x00, 0x00, 0xFF, 0xB0, 0x0802⟩,
      [(0x0880, none), (0x0881, none), (0x0882, none)]) := by
  decide

/-- spec/95: BNE +5 across 0xFFFF. -/
theorem test_bne_D0 :
    runs (start ⟨0x00, 0x00, 0x00, 0xFF, 0x30, 0xFFFC⟩ [0xD0, 0x05] []) =
      some (⟨0x00, 0x00, 0x00, 0xFF, 0x30, 0x0003⟩,
      [(0xFFFC, none), (0xFFFD, none), (0xFFFE, none), (0xFF03, none)]) := by
  decide

/-- spec/95: BPL +5 not taken. -/
theorem test_bpl_10 :
    runs (start ⟨0x00, 0x00, 0x00, 0xFF, 0xB0, 0x0800⟩ [0x10, 0x05] []) =
      some (⟨0x00, 0x00, 0x00, 0xFF, 0xB0, 0x0802⟩,
      [(0x0800, none), (0x0801, none)]) := by
  decide

/-- spec/95: BRK at a page end. -/
theorem test_brk_00 :
    runs (start ⟨0x00, 0x00, 0x00, 0xFF, 0xE3, 0x08FF⟩ [0x00, 0xAA] [(0xFFFE, 0x34), (0xFFFF, 0x12)]) =
      some (⟨0x00, 0x00, 0x00, 0xFC, 0xF7, 0x1234⟩,
      [(0x08FF, none), (0x0900, none), (0x01FF, some 0x09), (0x01FE, some 0x01), (0x01FD, some 0xF3), (0xFFFE,
       none), (0xFFFF, none)]) := by
  decide

/-- spec/95: BVC +0 taken. -/
theorem test_bvc_50 :
    runs (start ⟨0x00, 0x00, 0x00, 0xFF, 0x30, 0x0800⟩ [0x50, 0x00] []) =
      some (⟨0x00, 0x00, 0x00, 0xFF, 0x30, 0x0802⟩,
      [(0x0800, none), (0x0801, none), (0x0802, none)]) := by
  decide

/-- spec/95: BVS +2 taken. -/
theorem test_bvs_70 :
    runs (start ⟨0x00, 0x00, 0x00, 0xFF, 0x70, 0x0800⟩ [0x70, 0x02] []) =
      some (⟨0x00, 0x00, 0x00, 0xFF, 0x70, 0x0804⟩,
      [(0x0800, none), (0x0801, none), (0x0802, none)]) := by
  decide

/-- spec/95: CLC. -/
theorem test_clc_18 :
    runs (start ⟨0x00, 0x00, 0x00, 0xFF, 0xFF, 0x0800⟩ [0x18] []) =
      some (⟨0x00, 0x00, 0x00, 0xFF, 0xFE, 0x0801⟩,
      [(0x0800, none), (0x0801, none)]) := by
  decide

/-- spec/95: CLD. -/
theorem test_cld_D8 :
    runs (start ⟨0x00, 0x00, 0x00, 0xFF, 0xFF, 0x0800⟩ [0xD8] []) =
      some (⟨0x00, 0x00, 0x00, 0xFF, 0xF7, 0x0801⟩,
      [(0x0800, none), (0x0801, none)]) := by
  decide

/-- spec/95: CLI. -/
theorem test_cli_58 :
    runs (start ⟨0x00, 0x00, 0x00, 0xFF, 0xFF, 0x0800⟩ [0x58] []) =
      some (⟨0x00, 0x00, 0x00, 0xFF, 0xFB, 0x0801⟩,
      [(0x0800, none), (0x0801, none)]) := by
  decide

/-- spec/95: CLV. -/
theorem test_clv_B8 :
    runs (start ⟨0x00, 0x00, 0x00, 0xFF, 0xFF, 0x0800⟩ [0xB8] []) =
      some (⟨0x00, 0x00, 0x00, 0xFF, 0xBF, 0x0801⟩,
      [(0x0800, none), (0x0801, none)]) := by
  decide

/-- spec/95: CPX #$10. -/
theorem test_cpx_E0 :
    runs (start ⟨0x00, 0x0F, 0x00, 0xFF, 0x30, 0x0800⟩ [0xE0, 0x10] []) =
      some (⟨0x00, 0x0F, 0x00, 0xFF, 0xB0, 0x0802⟩,
      [(0x0800, none), (0x0801, none)]) := by
  decide

/-- spec/95: CPY $10. -/
theorem test_cpy_C4 :
    runs (start ⟨0x00, 0x00, 0x80, 0xFF, 0x30, 0x0800⟩ [0xC4, 0x10] [(0x0010, 0x80)]) =
      some (⟨0x00, 0x00, 0x80, 0xFF, 0x33, 0x0802⟩,
      [(0x0800, none), (0x0801, none), (0x0010, none)]) := by
  decide

/-- spec/95: DCP ($20,X). -/
theorem test_dcp_C3 :
    runs (start ⟨0x10, 0x04, 0x00, 0xFF, 0x30, 0x0800⟩ [0xC3, 0x20]
      [(0x0024, 0x00), (0x0025, 0x30), (0x3000, 0x11)]) =
      some (⟨0x10, 0x04, 0x00, 0xFF, 0x33, 0x0802⟩,
      [(0x0800, none), (0x0801, none), (0x0020, none), (0x0024, none), (0x0025, none), (0x3000, none), (0x3000,
       some 0x11), (0x3000, some 0x10)]) := by
  decide

/-- spec/95: DEC $20FF,X. -/
theorem test_dec_DE :
    runs (start ⟨0x00, 0x01, 0x00, 0xFF, 0x30, 0x0800⟩ [0xDE, 0xFF, 0x20] [(0x2100, 0x00)]) =
      some (⟨0x00, 0x01, 0x00, 0xFF, 0xB0, 0x0803⟩,
      [(0x0800, none), (0x0801, none), (0x0802, none), (0x2000, none), (0x2100, none), (0x2100, some 0x00),
       (0x2100, some 0xFF)]) := by
  decide

/-- spec/95: DEX. -/
theorem test_dex_CA :
    runs (start ⟨0x00, 0x01, 0x00, 0xFF, 0x30, 0x0800⟩ [0xCA] []) =
      some (⟨0x00, 0x00, 0x00, 0xFF, 0x32, 0x0801⟩,
      [(0x0800, none), (0x0801, none)]) := by
  decide

/-- spec/95: DEY. -/
theorem test_dey_88 :
    runs (start ⟨0x00, 0x00, 0x00, 0xFF, 0x30, 0x0800⟩ [0x88] []) =
      some (⟨0x00, 0x00, 0xFF, 0xFF, 0xB0, 0x0801⟩,
      [(0x0800, none), (0x0801, none)]) := by
  decide

/-- spec/95: EOR #$FF. -/
theorem test_eor_49 :
    runs (start ⟨0x7F, 0x00, 0x00, 0xFF, 0x30, 0x0800⟩ [0x49, 0xFF] []) =
      some (⟨0x80, 0x00, 0x00, 0xFF, 0xB0, 0x0802⟩,
      [(0x0800, none), (0x0801, none)]) := by
  decide

/-- spec/95: INC $10,X. -/
theorem test_inc_F6 :
    runs (start ⟨0x00, 0x05, 0x00, 0xFF, 0x30, 0x0800⟩ [0xF6, 0x10] [(0x0015, 0xFF)]) =
      some (⟨0x00, 0x05, 0x00, 0xFF, 0x32, 0x0802⟩,
      [(0x0800, none), (0x0801, none), (0x0010, none), (0x0015, none), (0x0015, some 0xFF), (0x0015, some
       0x00)]) := by
  decide

/-- spec/95: INX. -/
theorem test_inx_E8 :
    runs (start ⟨0x00, 0xFF, 0x00, 0xFF, 0x30, 0x0800⟩ [0xE8] []) =
      some (⟨0x00, 0x00, 0x00, 0xFF, 0x32, 0x0801⟩,
      [(0x0800, none), (0x0801, none)]) := by
  decide

/-- spec/95: INY. -/
theorem test_iny_C8 :
    runs (start ⟨0x00, 0x00, 0x7F, 0xFF, 0x30, 0x0800⟩ [0xC8] []) =
      some (⟨0x00, 0x00, 0x80, 0xFF, 0xB0, 0x0801⟩,
      [(0x0800, none), (0x0801, none)]) := by
  decide

/-- spec/95: ISC ($40),Y. -/
theorem test_isc_F3 :
    runs (start ⟨0x10, 0x00, 0x01, 0xFF, 0x31, 0x0800⟩ [0xF3, 0x40]
      [(0x0040, 0x00), (0x0041, 0x30), (0x3001, 0xFF)]) =
      some (⟨0x10, 0x00, 0x01, 0xFF, 0x31, 0x0802⟩,
      [(0x0800, none), (0x0801, none), (0x0040, none), (0x0041, none), (0x3001, none), (0x3001, none), (0x3001,
       some 0xFF), (0x3001, some 0x00)]) := by
  decide

/-- spec/95: JMP ($30FF). -/
theorem test_jmp_6C :
    runs (start ⟨0x00, 0x00, 0x00, 0xFF, 0x30, 0x0800⟩ [0x6C, 0xFF, 0x30]
      [(0x30FF, 0x00), (0x3000, 0x80), (0x3100, 0x40)]) =
      some (⟨0x00, 0x00, 0x00, 0xFF, 0x30, 0x8000⟩,
      [(0x0800, none), (0x0801, none), (0x0802, none), (0x30FF, none), (0x3000, none)]) := by
  decide

/-- spec/95: JMP $1234. -/
theorem test_jmp_4C :
    runs (start ⟨0x00, 0x00, 0x00, 0xFF, 0x30, 0x0800⟩ [0x4C, 0x34, 0x12] []) =
      some (⟨0x00, 0x00, 0x00, 0xFF, 0x30, 0x1234⟩,
      [(0x0800, none), (0x0801, none), (0x0802, none)]) := by
  decide

/-- spec/95: JSR $9000, SP wraps. -/
theorem test_jsr_20 :
    runs (start ⟨0x00, 0x00, 0x00, 0x00, 0x30, 0x0800⟩ [0x20, 0x00, 0x90] []) =
      some (⟨0x00, 0x00, 0x00, 0xFE, 0x30, 0x9000⟩,
      [(0x0800, none), (0x0801, none), (0x0100, none), (0x0100, some 0x08), (0x01FF, some 0x02), (0x0802,
       none)]) := by
  decide

/-- spec/95: LAS $2000,Y. -/
theorem test_las_BB :
    runs (start ⟨0x00, 0x00, 0x01, 0x3C, 0x30, 0x0800⟩ [0xBB, 0x00, 0x20] [(0x2001, 0xF0)]) =
      some (⟨0x30, 0x30, 0x01, 0x30, 0x30, 0x0803⟩,
      [(0x0800, none), (0x0801, none), (0x0802, none), (0x2001, none)]) := by
  decide

/-- spec/95: LAX ($40),Y cross. -/
theorem test_lax_B3 :
    runs (start ⟨0x05, 0x06, 0x01, 0xFF, 0x30, 0x0800⟩ [0xB3, 0x40]
      [(0x0040, 0xFF), (0x0041, 0x20), (0x2100, 0x00)]) =
      some (⟨0x00, 0x00, 0x01, 0xFF, 0x32, 0x0802⟩,
      [(0x0800, none), (0x0801, none), (0x0040, none), (0x0041, none), (0x2000, none), (0x2100, none)]) := by
  decide

/-- spec/95: LDA $FFFF,Y (wraps to 0x0000). -/
theorem test_lda_B9 :
    runs (start ⟨0x00, 0x00, 0x01, 0xFF, 0x30, 0x0800⟩ [0xB9, 0xFF, 0xFF] [(0x0000, 0x77), (0xFF00, 0x12)]) =
      some (⟨0x77, 0x00, 0x01, 0xFF, 0x30, 0x0803⟩,
      [(0x0800, none), (0x0801, none), (0x0802, none), (0xFF00, none), (0x0000, none)]) := by
  decide

/-- spec/95: LDA ($FE,X) (pointer at 0xFF, 0x00). -/
theorem test_lda_A1 :
    runs (start ⟨0x00, 0x01, 0x00, 0xFF, 0x30, 0x0800⟩ [0xA1, 0xFE]
      [(0x00FF, 0x00), (0x0000, 0x40), (0x4000, 0x6B)]) =
      some (⟨0x6B, 0x01, 0x00, 0xFF, 0x30, 0x0802⟩,
      [(0x0800, none), (0x0801, none), (0x00FE, none), (0x00FF, none), (0x0000, none), (0x4000, none)]) := by
  decide

/-- spec/95: LDX $FF,Y (wraps). -/
theorem test_ldx_B6 :
    runs (start ⟨0x00, 0x00, 0x01, 0xFF, 0x30, 0x0800⟩ [0xB6, 0xFF] [(0x0000, 0x7F), (0x00FF, 0x11)]) =
      some (⟨0x00, 0x7F, 0x01, 0xFF, 0x30, 0x0802⟩,
      [(0x0800, none), (0x0801, none), (0x00FF, none), (0x0000, none)]) := by
  decide

/-- spec/95: LDY #$00. -/
theorem test_ldy_A0 :
    runs (start ⟨0x00, 0x00, 0x55, 0xFF, 0x30, 0x0800⟩ [0xA0, 0x00] []) =
      some (⟨0x00, 0x00, 0x00, 0xFF, 0x32, 0x0802⟩,
      [(0x0800, none), (0x0801, none)]) := by
  decide

/-- spec/95: LSR A. -/
theorem test_lsr_4A :
    runs (start ⟨0x01, 0x00, 0x00, 0xFF, 0x30, 0x0800⟩ [0x4A] []) =
      some (⟨0x00, 0x00, 0x00, 0xFF, 0x33, 0x0801⟩,
      [(0x0800, none), (0x0801, none)]) := by
  decide

/-- spec/95: LXA AB (nop2). -/
theorem test_lxa_AB :
    runs (start ⟨0xFF, 0x00, 0x00, 0xFF, 0x30, 0x0800⟩ [0xAB, 0x0F] []) =
      some (⟨0xFF, 0x00, 0x00, 0xFF, 0x30, 0x0802⟩,
      [(0x0800, none), (0x0801, none)]) := by
  decide

/-- spec/95: NOP $20FF,X (1C) cross. -/
theorem test_nop_1C :
    runs (start ⟨0x00, 0x01, 0x00, 0xFF, 0x30, 0x0800⟩ [0x1C, 0xFF, 0x20] []) =
      some (⟨0x00, 0x01, 0x00, 0xFF, 0x30, 0x0803⟩,
      [(0x0800, none), (0x0801, none), (0x0802, none), (0x2000, none), (0x2100, none)]) := by
  decide

/-- spec/95: NOP $C000 (0C). -/
theorem test_nop_0C :
    runs (start ⟨0x00, 0x00, 0x00, 0xFF, 0x30, 0x0800⟩ [0x0C, 0x00, 0xC0] []) =
      some (⟨0x00, 0x00, 0x00, 0xFF, 0x30, 0x0803⟩,
      [(0x0800, none), (0x0801, none), (0x0802, none), (0xC000, none)]) := by
  decide

/-- spec/95: ORA #$0F. -/
theorem test_ora_09 :
    runs (start ⟨0xF0, 0x00, 0x00, 0xFF, 0x30, 0x0800⟩ [0x09, 0x0F] []) =
      some (⟨0xFF, 0x00, 0x00, 0xFF, 0xB0, 0x0802⟩,
      [(0x0800, none), (0x0801, none)]) := by
  decide

/-- spec/95: PHA, SP wraps. -/
theorem test_pha_48 :
    runs (start ⟨0xAB, 0x00, 0x00, 0x00, 0x30, 0x0800⟩ [0x48] []) =
      some (⟨0xAB, 0x00, 0x00, 0xFF, 0x30, 0x0801⟩,
      [(0x0800, none), (0x0801, none), (0x0100, some 0xAB)]) := by
  decide

/-- spec/95: PHP. -/
theorem test_php_08 :
    runs (start ⟨0x00, 0x00, 0x00, 0xFF, 0xE3, 0x0800⟩ [0x08] []) =
      some (⟨0x00, 0x00, 0x00, 0xFE, 0xE3, 0x0801⟩,
      [(0x0800, none), (0x0801, none), (0x01FF, some 0xF3)]) := by
  decide

/-- spec/95: PLA, SP wraps. -/
theorem test_pla_68 :
    runs (start ⟨0x55, 0x00, 0x00, 0xFF, 0x30, 0x0800⟩ [0x68] [(0x0100, 0x00)]) =
      some (⟨0x00, 0x00, 0x00, 0x00, 0x32, 0x0801⟩,
      [(0x0800, none), (0x0801, none), (0x01FF, none), (0x0100, none)]) := by
  decide

/-- spec/95: PLP. -/
theorem test_plp_28 :
    runs (start ⟨0x00, 0x00, 0x00, 0xFE, 0x30, 0x0800⟩ [0x28] [(0x01FF, 0xCF)]) =
      some (⟨0x00, 0x00, 0x00, 0xFF, 0xEF, 0x0801⟩,
      [(0x0800, none), (0x0801, none), (0x01FE, none), (0x01FF, none)]) := by
  decide

/-- spec/95: ROL $10. -/
theorem test_rol_26 :
    runs (start ⟨0x00, 0x00, 0x00, 0xFF, 0x31, 0x0800⟩ [0x26, 0x10] [(0x0010, 0x80)]) =
      some (⟨0x00, 0x00, 0x00, 0xFF, 0x31, 0x0802⟩,
      [(0x0800, none), (0x0801, none), (0x0010, none), (0x0010, some 0x80), (0x0010, some 0x01)]) := by
  decide

/-- spec/95: ROR $2000. -/
theorem test_ror_6E :
    runs (start ⟨0x00, 0x00, 0x00, 0xFF, 0x30, 0x0800⟩ [0x6E, 0x00, 0x20] [(0x2000, 0x01)]) =
      some (⟨0x00, 0x00, 0x00, 0xFF, 0x33, 0x0803⟩,
      [(0x0800, none), (0x0801, none), (0x0802, none), (0x2000, none), (0x2000, some 0x01), (0x2000, some
       0x00)]) := by
  decide

/-- spec/95: RTI. -/
theorem test_rti_40 :
    runs (start ⟨0x00, 0x00, 0x00, 0xFC, 0x24, 0x0800⟩ [0x40] [(0x01FD, 0xDF), (0x01FE, 0x34), (0x01FF, 0x12)]) =
      some (⟨0x00, 0x00, 0x00, 0xFF, 0xFF, 0x1234⟩,
      [(0x0800, none), (0x0801, none), (0x01FC, none), (0x01FD, none), (0x01FE, none), (0x01FF, none)]) := by
  decide

/-- spec/95: RTS. -/
theorem test_rts_60 :
    runs (start ⟨0x00, 0x00, 0x00, 0xFD, 0x30, 0x0800⟩ [0x60] [(0x01FE, 0x02), (0x01FF, 0x08)]) =
      some (⟨0x00, 0x00, 0x00, 0xFF, 0x30, 0x0803⟩,
      [(0x0800, none), (0x0801, none), (0x01FD, none), (0x01FE, none), (0x01FF, none), (0x0802, none)]) := by
  decide

/-- spec/95: SAX ($20,X). -/
theorem test_sax_83 :
    runs (start ⟨0xFF, 0x04, 0x00, 0xFF, 0x30, 0x0800⟩ [0x83, 0x20] [(0x0024, 0x00), (0x0025, 0x30)]) =
      some (⟨0xFF, 0x04, 0x00, 0xFF, 0x30, 0x0802⟩,
      [(0x0800, none), (0x0801, none), (0x0020, none), (0x0024, none), (0x0025, none), (0x3000, some 0x04)]) :=
       by
  decide

/-- spec/95: SBC #$01 (EB). -/
theorem test_sbc_EB :
    runs (start ⟨0x80, 0x00, 0x00, 0xFF, 0x31, 0x0800⟩ [0xEB, 0x01] []) =
      some (⟨0x7F, 0x00, 0x00, 0xFF, 0x71, 0x0802⟩,
      [(0x0800, none), (0x0801, none)]) := by
  decide

/-- spec/95: SEC. -/
theorem test_sec_38 :
    runs (start ⟨0x00, 0x00, 0x00, 0xFF, 0x20, 0x0800⟩ [0x38] []) =
      some (⟨0x00, 0x00, 0x00, 0xFF, 0x21, 0x0801⟩,
      [(0x0800, none), (0x0801, none)]) := by
  decide

/-- spec/95: SED. -/
theorem test_sed_F8 :
    runs (start ⟨0x00, 0x00, 0x00, 0xFF, 0x20, 0x0800⟩ [0xF8] []) =
      some (⟨0x00, 0x00, 0x00, 0xFF, 0x28, 0x0801⟩,
      [(0x0800, none), (0x0801, none)]) := by
  decide

/-- spec/95: SEI. -/
theorem test_sei_78 :
    runs (start ⟨0x00, 0x00, 0x00, 0xFF, 0x20, 0x0800⟩ [0x78] []) =
      some (⟨0x00, 0x00, 0x00, 0xFF, 0x24, 0x0801⟩,
      [(0x0800, none), (0x0801, none)]) := by
  decide

/-- spec/95: SHA 93 (fetch-only). -/
theorem test_sha_93 :
    runs (start ⟨0xFF, 0xFF, 0x01, 0xFF, 0x30, 0x0800⟩ [0x93, 0x40] [(0x0040, 0x00), (0x0041, 0x30)]) =
      some (⟨0xFF, 0xFF, 0x01, 0xFF, 0x30, 0x0802⟩,
      [(0x0800, none), (0x0801, none)]) := by
  decide

/-- spec/95: SHX 9E. -/
theorem test_shx_9E :
    runs (start ⟨0x00, 0xFF, 0x01, 0xFF, 0x30, 0x0800⟩ [0x9E, 0x00, 0x30] []) =
      some (⟨0x00, 0xFF, 0x01, 0xFF, 0x30, 0x0803⟩,
      [(0x0800, none), (0x0801, none), (0x0802, none)]) := by
  decide

/-- spec/95: SHY 9C. -/
theorem test_shy_9C :
    runs (start ⟨0x00, 0x01, 0xFF, 0xFF, 0x30, 0x0800⟩ [0x9C, 0x00, 0x30] []) =
      some (⟨0x00, 0x01, 0xFF, 0xFF, 0x30, 0x0803⟩,
      [(0x0800, none), (0x0801, none), (0x0802, none)]) := by
  decide

/-- spec/95: SLO $20FF,Y. -/
theorem test_slo_1B :
    runs (start ⟨0x01, 0x00, 0x01, 0xFF, 0x30, 0x0800⟩ [0x1B, 0xFF, 0x20] [(0x2100, 0x81)]) =
      some (⟨0x03, 0x00, 0x01, 0xFF, 0x31, 0x0803⟩,
      [(0x0800, none), (0x0801, none), (0x0802, none), (0x2000, none), (0x2100, none), (0x2100, some 0x81),
       (0x2100, some 0x02)]) := by
  decide

/-- spec/95: STA $20FF,Y (cross: dummy at uncorrected page). -/
theorem test_sta_99 :
    runs (start ⟨0x3C, 0x00, 0x01, 0xFF, 0x30, 0x0800⟩ [0x99, 0xFF, 0x20] []) =
      some (⟨0x3C, 0x00, 0x01, 0xFF, 0x30, 0x0803⟩,
      [(0x0800, none), (0x0801, none), (0x0802, none), (0x2000, none), (0x2100, some 0x3C)]) := by
  decide

/-- spec/95: STX $10,Y (wraps). -/
theorem test_stx_96 :
    runs (start ⟨0x00, 0x81, 0xF8, 0xFF, 0x30, 0x0800⟩ [0x96, 0x10] []) =
      some (⟨0x00, 0x81, 0xF8, 0xFF, 0x30, 0x0802⟩,
      [(0x0800, none), (0x0801, none), (0x0010, none), (0x0008, some 0x81)]) := by
  decide

/-- spec/95: STY $10,X. -/
theorem test_sty_94 :
    runs (start ⟨0x00, 0x01, 0x33, 0xFF, 0x30, 0x0800⟩ [0x94, 0x10] []) =
      some (⟨0x00, 0x01, 0x33, 0xFF, 0x30, 0x0802⟩,
      [(0x0800, none), (0x0801, none), (0x0010, none), (0x0011, some 0x33)]) := by
  decide

/-- spec/95: TAS 9B. -/
theorem test_tas_9B :
    runs (start ⟨0xFF, 0x0F, 0x01, 0xFF, 0x30, 0x0800⟩ [0x9B, 0x00, 0x30] []) =
      some (⟨0xFF, 0x0F, 0x01, 0xFF, 0x30, 0x0803⟩,
      [(0x0800, none), (0x0801, none), (0x0802, none)]) := by
  decide

/-- spec/95: TAX. -/
theorem test_tax_AA :
    runs (start ⟨0x80, 0x00, 0x00, 0xFF, 0x30, 0x0800⟩ [0xAA] []) =
      some (⟨0x80, 0x80, 0x00, 0xFF, 0xB0, 0x0801⟩,
      [(0x0800, none), (0x0801, none)]) := by
  decide

/-- spec/95: TAY. -/
theorem test_tay_A8 :
    runs (start ⟨0x7F, 0x00, 0x00, 0xFF, 0x30, 0x0800⟩ [0xA8] []) =
      some (⟨0x7F, 0x00, 0x7F, 0xFF, 0x30, 0x0801⟩,
      [(0x0800, none), (0x0801, none)]) := by
  decide

/-- spec/95: TSX. -/
theorem test_tsx_BA :
    runs (start ⟨0x00, 0x09, 0x00, 0x00, 0x30, 0x0800⟩ [0xBA] []) =
      some (⟨0x00, 0x00, 0x00, 0x00, 0x32, 0x0801⟩,
      [(0x0800, none), (0x0801, none)]) := by
  decide

/-- spec/95: TXA. -/
theorem test_txa_8A :
    runs (start ⟨0x55, 0x00, 0x00, 0xFF, 0x30, 0x0800⟩ [0x8A] []) =
      some (⟨0x00, 0x00, 0x00, 0xFF, 0x32, 0x0801⟩,
      [(0x0800, none), (0x0801, none)]) := by
  decide

/-- spec/95: TXS (no flags). -/
theorem test_txs_9A :
    runs (start ⟨0x00, 0x00, 0x00, 0xFF, 0xB0, 0x0800⟩ [0x9A] []) =
      some (⟨0x00, 0x00, 0x00, 0x00, 0xB0, 0x0801⟩,
      [(0x0800, none), (0x0801, none)]) := by
  decide

/-- spec/95: TYA. -/
theorem test_tya_98 :
    runs (start ⟨0x00, 0x00, 0xFF, 0xFF, 0x30, 0x0800⟩ [0x98] []) =
      some (⟨0xFF, 0x00, 0xFF, 0xFF, 0xB0, 0x0801⟩,
      [(0x0800, none), (0x0801, none)]) := by
  decide

/-- spec/95 V-AD: 50 + 50. -/
theorem test_adc_binary_overflow :
    runs (start ⟨0x50, 0x00, 0x00, 0xFF, 0x30, 0x0800⟩ [0x69, 0x50] []) =
      some (⟨0xA0, 0x00, 0x00, 0xFF, 0xF0, 0x0802⟩,
      [(0x0800, none), (0x0801, none)]) := by
  decide

/-- spec/95 V-DE: 58 + 46 + 1. -/
theorem test_adc_decimal :
    runs (start ⟨0x58, 0x00, 0x00, 0xFF, 0x39, 0x0800⟩ [0x69, 0x46] []) =
      some (⟨0x05, 0x00, 0x00, 0xFF, 0xF9, 0x0802⟩,
      [(0x0800, none), (0x0801, none)]) := by
  decide

/-- spec/95 V-DE: 12 - 21. -/
theorem test_sbc_decimal :
    runs (start ⟨0x12, 0x00, 0x00, 0xFF, 0x39, 0x0800⟩ [0xE9, 0x21] []) =
      some (⟨0x91, 0x00, 0x00, 0xFF, 0xB8, 0x0802⟩,
      [(0x0800, none), (0x0801, none)]) := by
  decide

/-- spec/95 V-AL: 0F against 10. -/
theorem test_cmp_borrow :
    runs (start ⟨0x0F, 0x00, 0x00, 0xFF, 0x30, 0x0800⟩ [0xC9, 0x10] []) =
      some (⟨0x0F, 0x00, 0x00, 0xFF, 0xB0, 0x0802⟩,
      [(0x0800, none), (0x0801, none)]) := by
  decide

/-- spec/95 V-IL. -/
theorem test_anc :
    runs (start ⟨0xFF, 0x00, 0x00, 0xFF, 0x30, 0x0800⟩ [0x2B, 0x80] []) =
      some (⟨0x80, 0x00, 0x00, 0xFF, 0xB1, 0x0802⟩,
      [(0x0800, none), (0x0801, none)]) := by
  decide

/-- spec/95 V-IL. -/
theorem test_alr :
    runs (start ⟨0x81, 0x00, 0x00, 0xFF, 0x30, 0x0800⟩ [0x4B, 0x81] []) =
      some (⟨0x40, 0x00, 0x00, 0xFF, 0x31, 0x0802⟩,
      [(0x0800, none), (0x0801, none)]) := by
  decide

/-- spec/95 V-IL. -/
theorem test_arr :
    runs (start ⟨0xC0, 0x00, 0x00, 0xFF, 0x31, 0x0800⟩ [0x6B, 0x7F] []) =
      some (⟨0xA0, 0x00, 0x00, 0xFF, 0xF0, 0x0802⟩,
      [(0x0800, none), (0x0801, none)]) := by
  decide

/-- spec/95 V-IL. -/
theorem test_sbx :
    runs (start ⟨0x0F, 0xF3, 0x00, 0xFF, 0x30, 0x0800⟩ [0xCB, 0x04] []) =
      some (⟨0x0F, 0xFF, 0x00, 0xFF, 0xB0, 0x0802⟩,
      [(0x0800, none), (0x0801, none)]) := by
  decide

/-- spec/95 V-IL, combined read-modify-write. -/
theorem test_rla :
    runs (start ⟨0xFF, 0x00, 0x00, 0xFF, 0x31, 0x0800⟩ [0x27, 0x10] [(0x0010, 0x80)]) =
      some (⟨0x01, 0x00, 0x00, 0xFF, 0x31, 0x0802⟩,
      [(0x0800, none), (0x0801, none), (0x0010, none), (0x0010, some 0x80), (0x0010, some 0x01)]) := by
  decide

/-- spec/95 V-IL, combined read-modify-write. -/
theorem test_sre :
    runs (start ⟨0xFF, 0x00, 0x00, 0xFF, 0x31, 0x0800⟩ [0x47, 0x10] [(0x0010, 0x80)]) =
      some (⟨0xBF, 0x00, 0x00, 0xFF, 0xB0, 0x0802⟩,
      [(0x0800, none), (0x0801, none), (0x0010, none), (0x0010, some 0x80), (0x0010, some 0x40)]) := by
  decide

/-- spec/95 V-IL, combined read-modify-write. -/
theorem test_rra :
    runs (start ⟨0xFF, 0x00, 0x00, 0xFF, 0x31, 0x0800⟩ [0x67, 0x10] [(0x0010, 0x80)]) =
      some (⟨0xBF, 0x00, 0x00, 0xFF, 0xB1, 0x0802⟩,
      [(0x0800, none), (0x0801, none), (0x0010, none), (0x0010, some 0x80), (0x0010, some 0xC0)]) := by
  decide

/-- spec/95 V-IL, combined read-modify-write. -/
theorem test_rra_decimal :
    runs (start ⟨0x19, 0x00, 0x00, 0xFF, 0x38, 0x0800⟩ [0x67, 0x10] [(0x0010, 0x02)]) =
      some (⟨0x20, 0x00, 0x00, 0xFF, 0x38, 0x0802⟩,
      [(0x0800, none), (0x0801, none), (0x0010, none), (0x0010, some 0x02), (0x0010, some 0x01)]) := by
  decide

/-- spec/95 V-IL, combined read-modify-write. -/
theorem test_isc_decimal :
    runs (start ⟨0x20, 0x00, 0x00, 0xFF, 0x39, 0x0800⟩ [0xE7, 0x10] [(0x0010, 0x00)]) =
      some (⟨0x19, 0x00, 0x00, 0xFF, 0x39, 0x0802⟩,
      [(0x0800, none), (0x0801, none), (0x0010, none), (0x0010, some 0x00), (0x0010, some 0x01)]) := by
  decide

/-- spec/95 V-IL: after JAM the machine is halted, with one fetch and nothing more. -/
theorem test_jam_halts :
    after (·.sched.halted) (start ⟨0x00, 0x00, 0x00, 0xFF, 0x30, 0x0800⟩ [0x02] []) = some true ∧
    runs (start ⟨0x00, 0x00, 0x00, 0xFF, 0x30, 0x0800⟩ [0x02] []) =
      some (⟨0x00, 0x00, 0x00, 0xFF, 0x30, 0x0800⟩, [(0x0800, none)]) := by
  decide

/-! ### The bus unit (spec/95 V-CL) -/

theorem test_classify_boundaries :
    classify Config.default 0xBFFF .allFastInternal = .allFastInternal ∧
    classify Config.default 0xC000 .allFastInternal = .readInternalWriteExternal ∧
    classify Config.default 0xCFFF .allExternal = .readInternalWriteExternal ∧
    classify Config.default 0xD000 .allFastInternal = .allExternal ∧
    classify Config.default 0xFFFF .allFastInternal = .allExternal := by decide

theorem test_read_external : (memRead 0x0300 (levelled .allExternal 0x0300)).map (·.1) = some 0x22 := by decide
theorem test_read_internal : (memRead 0x0300 (levelled .readInternalWriteExternal 0x0300)).map
    (fun r => (r.1, r.2.bus.lastInternal, r.2.bus.log)) =
    some (0x11, false, [.read 0x0300 false true false]) := by decide
theorem test_read_fast : (memRead 0x0300 (levelled .readFastInternalWriteExternal 0x0300)).map
    (fun r => (r.1, r.2.bus.lastInternal, r.2.bus.log)) =
    some (0x11, true, [.read 0x0300 false false false]) := by decide
theorem test_read_device : (memRead 0xC010 (levelled .allFastInternal 0xC010)).map (·.1) = some 0x11 := by decide
theorem test_read_rom : (memRead 0xE000 (levelled .allFastInternal 0xE000)).map (·.1) = some 0x22 := by decide

theorem test_write_fast :
    (memWrite 0x0300 0x33 (levelled .allFastInternal 0x0300)).bus.log = [.write 0x0300 0x33 false] ∧
    (memWrite 0x0300 0x33 (levelled .allFastInternal 0x0300)).bus.partner.mem.get 0x0300 = 0x22 := by decide
theorem test_write_rom :
    (memWrite 0xE000 0x33 (levelled .allFastInternal 0xE000)).bus.log = [.write 0xE000 0x33 true] ∧
    (memWrite 0xE000 0x33 (levelled .allFastInternal 0xE000)).bus.shadow.get 0xE000 = 0x11 := by decide

/-- A partner that answers READY 0, 0, 1: the data of the third sample (spec/95 V-CL). -/
def slow (rest : List Sample) : State :=
  { State.reset with
    bus := { State.reset.bus with
      partner :=
        { samples := [⟨0x01, false, false, false, false⟩, ⟨0x02, false, true, false, false⟩,
            ⟨0x03, true, false, true, false⟩] ++ rest
          mem := [], lines := Lines.idle } } }

theorem test_wait_states : (memRead 0x0300 (slow [])).map (fun r => (r.1, r.2.bus.snap.nmi, r.2.bus.log.length)) =
    some (0x03, true, 1) := by decide

/-- A machine with the matcher, the key `1 2 3 4`, the selector byte `5` for the fast level, and the data of the reads
to come. -/
def keyed (data : List Byte) : State :=
  { State.reset with
    cfg := { Config.default with
      matcherEnabled := true, key0 := 1, key1 := 2, key2 := 3, key3 := 4, selector := [(5, .allFastInternal)] }
    bus := { State.reset.bus with
      partner := { samples := data.map fun d => ⟨d, true, false, false, false⟩, mem := [], lines := Lines.idle } } }

theorem test_matcher_selects : (readAll (List.replicate 5 0xC000) (keyed [1, 2, 3, 4, 5])).map
    (fun t => (t.bus.matcher, t.bus.accel)) = some (0, .allFastInternal) := by decide
theorem test_matcher_restarts : (readAll (List.replicate 4 0xC000) (keyed [1, 2, 1, 2])).map
    (fun t => (t.bus.matcher, t.bus.accel)) = some (2, .allExternal) := by decide
theorem test_matcher_unknown_selector : (readAll (List.replicate 5 0xC000) (keyed [1, 2, 3, 4, 6])).map
    (fun t => (t.bus.matcher, t.bus.accel)) = some (0, .allExternal) := by decide

/-! ### Interrupts, reset, scheduler (spec/95 S7, S9, V-IN, P7) -/

/-- `EA` at `PC`, INC at the NMI handler, and one poll to come. -/
def polled (p : Byte) (pc : Addr) (l : Levels) : State :=
  { start ⟨0x00, 0x00, 0x00, 0xFF, p, pc⟩ [0xEA]
      [(0xFFFB, 0xA0), (0xFFFF, 0x90), (0xA000, 0xE6), (0xA001, 0x33), (0x9000, 0xE6), (0x9001, 0x31)] with
    polls := [l] }

/-- V-IN, poll 2. -/
theorem test_nmi : runs (polled 0x34 0x0801 ⟨false, true, false⟩) =
    some (⟨0x00, 0x00, 0x00, 0xFC, 0x24, 0xA002⟩,
      [(0x0801, none), (0x0801, none), (0x01FF, some 0x08), (0x01FE, some 0x01), (0x01FD, some 0x24), (0xFFFA, none),
       (0xFFFB, none), (0xA000, none), (0xA001, none), (0x0033, none), (0x0033, some 0x00), (0x0033, some 0x01)]) := by
  decide

/-- P7, poll 3. -/
theorem test_irq : (runs (polled 0x30 0x0802 ⟨false, false, true⟩)).map (·.1) =
    some ⟨0x00, 0x00, 0x00, 0xFC, 0x24, 0x9002⟩ := by decide

/-- P7, poll 1. -/
theorem test_irq_masked : (runs (polled 0x34 0x0800 ⟨false, false, true⟩)).map (·.1) =
    some ⟨0x00, 0x00, 0x00, 0xFF, 0x34, 0x0801⟩ := by decide

/-- V-IN: the RESET line with an NMI edge at the same poll. -/
theorem test_reset_line : after (fun t => (t.sched.runMode, t.sched.nmiPrev, t.cpu.pc))
    (polled 0x34 0x0800 ⟨true, true, false⟩) = some (.resetting, true, 0x0800) := by decide

/-- A machine about to run its reset sequence, with the vector bytes `00 F0` (S7). -/
def resetting : State :=
  { start ⟨0x00, 0x00, 0x00, 0x80, 0xFF, 0x1234⟩ [] [(0xFFFD, 0xF0)] with
    sched := { State.reset.sched with runMode := .resetting } }

/-- S7. -/
theorem test_reset_sequence : after (fun t => (t.cpu.pc, t.cpu.p, t.sched.runMode, calls t.bus.log)) resetting =
    some (0xF000, 0x34, .running,
      [(0x1234, none), (0x1234, none), (0x0180, none), (0x017F, none), (0x017E, none), (0xFFFC, none),
       (0xFFFD, none)]) := by decide

/-- A machine that runs into a breakpoint (S9). -/
def breaking : State :=
  { start ⟨0x00, 0x00, 0x00, 0xFF, 0x30, 0x0800⟩ [0xA9, 0x05] [] with
    sched := { State.reset.sched with breakpoint := some 0x0800 } }

/-- S9. -/
theorem test_breakpoint :
    after (·.sched.runMode) breaking = some .waiting ∧ after (·.sched.ir) breaking = some (some 0xA9) ∧
    runs breaking = some (⟨0x00, 0x00, 0x00, 0xFF, 0x30, 0x0800⟩, [(0x0800, none)]) := by decide

/-- A waiting machine with an opcode fetched and one command to come (V-SC). -/
def waiting (c : Command) : State :=
  { start ⟨0x00, 0x00, 0x00, 0xFF, 0x30, 0x0800⟩ [0xA9, 0x05] [] with
    sched := { State.reset.sched with runMode := .waiting, ir := some 0xA9 }
    host := [some c] }

theorem test_host_step : after (fun t => (t.sched.runMode, t.cpu.pc)) (waiting .step) =
    some (.singleStep, 0x0800) := by decide
theorem test_host_sets_p : after (·.cpu.p) (waiting (.setReg .p 0x1CF)) = some 0xEF := by decide
theorem test_host_reads : after (·.out.replies) (waiting (.getReg .pc)) = some [.reg .pc 0x0800] := by decide
theorem test_reset_keeps_the_last_vector_read : State.reset.bus.snap.ready = true := rfl

/-- A machine that has executed a JAM, with what the host will ask (R448). -/
def jammed (host : List (Option Command)) : State :=
  { start ⟨0x00, 0x00, 0x00, 0xFF, 0x30, 0x0800⟩ [0x02] [] with
    sched := { State.reset.sched with halted := true }
    host := host }

theorem test_locked_state_is_read : after (·.out.replies) (jammed [some .getHalted]) = some [.halted true] ∧
    after (·.out.replies) (jammed [some (.getReg .pc)]) = some [.reg .pc 0x0800] := by decide
theorem test_locked_state_stays : after (fun t => (t.sched.halted, t.sched.runMode)) (jammed [some .reset]) =
    some (true, .running) ∧ step (jammed []) = .fault .halted := ⟨by decide, rfl⟩

/-- `setRunMode` is taken in `Resetting` (R441), and after power-on only once the first sequence has run (R460). -/
theorem test_run_mode_set_in_resetting :
    after (fun t => (t.sched.runMode, t.cpu.pc)) { resetting with host := [some (.setRunMode .waiting)] } =
      some (.waiting, 0x1234) ∧
    after (fun t => (t.sched.runMode, t.cpu.pc, t.host))
      (powerOn [] { resetting with host := [some (.setRunMode .waiting)] }) =
      some (.running, 0xF000, [some (.setRunMode .waiting)]) := by decide

theorem test_no_command_holds : step { waiting .step with host := [] } = .fault .commandHold := rfl

/-! ### Concrete states that meet the hypotheses of the statements -/

theorem witness_DecodeInvertsEncode : (⟨.ldaAbs, [0x34, 0x12]⟩ : Code).wf = true := by decide
theorem witness_EncodeInvertsDecode : decode [0xAD, 0x34, 0x12, 0xEA] = .ok (⟨.ldaAbs, [0x34, 0x12]⟩, [0xEA]) := by
  decide

theorem witness_LoadsTakeTheOperandByte : State.reset.answered := rfl
theorem witness_StoresPutTheRegister : State.reset.answered := rfl
theorem witness_TransfersCopyTheRegister : State.reset.answered := rfl
theorem witness_LogicCombinesWithTheAccumulator : State.reset.answered := rfl
theorem witness_ComparesSetTheFlags : State.reset.answered := rfl
theorem witness_BitTestTakesFlagsFromMemory : State.reset.answered := rfl
theorem witness_AccumulatorShifts : State.reset.answered := rfl
theorem witness_MemoryModifiersWriteTwice : State.reset.answered := rfl
theorem witness_RegisterStepsWrapAround : State.reset.answered := rfl
theorem witness_ShiftAndLogicCombinations : State.reset.answered := rfl
theorem witness_ShiftAndAddCombinations : State.reset.answered := rfl
theorem witness_DecrementAndCompareCombination : State.reset.answered := rfl
theorem witness_CombinedReads : State.reset.answered := rfl
theorem witness_NoOperationsOnlyRead : State.reset.answered := rfl
theorem witness_JumpsGoToTheirTarget : State.reset.answered := rfl
theorem witness_SubroutineCall : State.reset.answered := rfl
theorem witness_SubroutineReturn : State.reset.answered := rfl
theorem witness_PushesStoreAtTheStackTop : State.reset.answered := rfl
theorem witness_PullsReadAboveTheStackTop : State.reset.answered := rfl
theorem witness_FlagInstructionsWriteOneFlag : State.reset.answered := rfl
theorem witness_BreakTakesTheTrap : State.reset.answered := rfl
theorem witness_ReturnFromInterrupt : State.reset.answered := rfl
theorem witness_InterruptEntry : State.reset.answered := rfl
theorem witness_EveryInstructionCompletes : State.reset.answered := rfl

/-- A step of the state after reset runs, and the state meets the invariant. -/
theorem witness_StepKeepsInvariant : State.reset.inv ∧ ∃ t, step State.reset = .next t :=
  ⟨by unfold State.inv; decide, _, rfl⟩

theorem witness_StepNeverWritesShadowRom : (∃ t, step State.reset = .next t) ∧ State.reset.cfg.romBase ≤ 0xD000 :=
  ⟨⟨_, rfl⟩, by decide⟩

/-- The mode changes: after the reset sequence, at a stop, at a command, at the RESET line. -/
theorem witness_RunModeChangesOnlyAsListed :
    (∃ t, step resetting = .next t ∧ t.sched.runMode ≠ resetting.sched.runMode) ∧
    (∃ t, step breaking = .next t ∧ t.sched.runMode ≠ breaking.sched.runMode) ∧
    (∃ t, step (waiting .step) = .next t ∧ t.sched.runMode ≠ (waiting .step).sched.runMode) ∧
    (∃ t, step (waiting .run) = .next t ∧ t.sched.runMode ≠ (waiting .run).sched.runMode) ∧
    (∃ t, step (waiting .reset) = .next t ∧ t.sched.runMode ≠ (waiting .reset).sched.runMode) ∧
    (∃ t, step (polled 0x34 0x0800 ⟨true, false, false⟩) = .next t ∧
      t.sched.runMode ≠ (polled 0x34 0x0800 ⟨true, false, false⟩).sched.runMode) ∧
    resetting.sched.halted = false ∧
    ({ resetting with host := [some (.setRunMode .waiting)] } : State).host = some (.setRunMode .waiting) :: [] :=
  ⟨⟨_, rfl, by decide⟩, ⟨_, rfl, by decide⟩, ⟨_, rfl, by decide⟩, ⟨_, rfl, by decide⟩, ⟨_, rfl, by decide⟩,
    ⟨_, rfl, by decide⟩, rfl, rfl⟩

/-- A halted state with a query and one without, a step that fetches a JAM, and one that has it held. -/
theorem witness_OnlyJamHalts :
    ((jammed [some .getHalted]).sched.halted = true ∧ ∃ t, step (jammed [some .getHalted]) = .next t) ∧
    ((jammed []).sched.halted = true ∧ (jammed []).host = []) ∧
    (∃ t, step (start ⟨0x00, 0x00, 0x00, 0xFF, 0x30, 0x0800⟩ [0x02] []) = .next t ∧ t.sched.halted = true) ∧
    ∃ t, step { plain 0x0800 with sched := { State.reset.sched with ir := some 0x92 } } = .next t ∧
      t.sched.halted = true :=
  ⟨⟨rfl, _, rfl⟩, ⟨rfl, rfl⟩, ⟨_, rfl, rfl⟩, _, rfl, rfl⟩

theorem witness_AccelerationLevelIsWrittenByMatcherOrHost :
    ∃ t, step (waiting (.setAccel .allFastInternal)) = .next t ∧
      t.bus.accel ≠ (waiting (.setAccel .allFastInternal)).bus.accel := ⟨_, rfl, by decide⟩

/-- The state after reset and the same state at another level. -/
theorem witness_ArchitectureIsIndependentOfAcceleration :
    State.reset.sameRun { State.reset with bus := { State.reset.bus with accel := .allFastInternal } } ∧
      ∃ t, step State.reset = .next t :=
  ⟨⟨rfl, rfl, by decide, ⟨rfl, rfl, rfl⟩, ⟨rfl, rfl, rfl⟩, fun _ _ _ => rfl, fun _ _ _ => rfl, rfl, fun _ _ => rfl,
    fun _ _ => rfl⟩, _, rfl⟩

/-- Each clause at the ends of its range. -/
theorem witness_ClassifierFollowsTheWindows : Config.default.windowsDisjoint = true ∧
    Config.default.romBase ≤ 0xD000 ∧ Config.default.romBase ≤ 0xFFFF ∧
    (Config.default.devLo ≤ 0xC000 ∧ 0xC000 ≤ Config.default.devHi) ∧
    (Config.default.devLo ≤ 0xCFFF ∧ 0xCFFF ≤ Config.default.devHi) ∧
    (∃ w ∈ Config.default.dynWindows, w.lo ≤ 0x0000 ∧ (0x0000 : Addr) ≤ w.hi) ∧
    (∃ w ∈ Config.default.dynWindows, w.lo ≤ 0xBFFF ∧ (0xBFFF : Addr) ≤ w.hi) ∧
    (({ Config.default with dynWindows := [⟨0x0000, 0x7FFF⟩] } : Config).windowsDisjoint = true ∧
      (0x8000 : Addr) < Config.default.romBase ∧ ¬ (Config.default.devLo ≤ 0x8000 ∧ 0x8000 ≤ Config.default.devHi) ∧
      ∀ w ∈ [(⟨0x0000, 0x7FFF⟩ : Window)], ¬ (w.lo ≤ 0x8000 ∧ 0x8000 ≤ w.hi)) := by decide

/-- Each of the four policies in the dynamic, the device and the ROM window, and an opcode fetch of either kind. -/
theorem witness_ReadsFollowThePolicy :
    ((levelled .readFastInternalWriteExternal 0x0300).policy 0x0300 = .readFastInternalWriteExternal ∧
      ∃ v t, memRead 0x0300 (levelled .readFastInternalWriteExternal 0x0300) = some (v, t)) ∧
    ((levelled .allFastInternal 0xBFFF).policy 0xBFFF = .allFastInternal ∧
      ∃ v t, memRead 0xBFFF (levelled .allFastInternal 0xBFFF) = some (v, t)) ∧
    ((levelled .readInternalWriteExternal 0x0300).policy 0x0300 = .readInternalWriteExternal ∧
      ∃ v t, memRead 0x0300 (levelled .readInternalWriteExternal 0x0300) = some (v, t)) ∧
    ((levelled .allFastInternal 0xC000).policy 0xC000 = .readInternalWriteExternal ∧
      ∃ v t, memRead 0xC000 (levelled .allFastInternal 0xC000) = some (v, t)) ∧
    ((levelled .allFastInternal 0xD000).policy 0xD000 = .allExternal ∧
      ∃ v t, memRead 0xD000 (levelled .allFastInternal 0xD000) = some (v, t)) ∧
    (∃ v t, memFetch 0xBFFF (levelled .allFastInternal 0xBFFF) = some (v, t)) ∧
    ∃ v t, memFetch 0xD000 (levelled .allFastInternal 0xD000) = some (v, t) :=
  ⟨⟨by decide, _, _, rfl⟩, ⟨by decide, _, _, rfl⟩, ⟨by decide, _, _, rfl⟩, ⟨by decide, _, _, rfl⟩,
    ⟨by decide, _, _, rfl⟩, ⟨_, _, rfl⟩, _, _, rfl⟩

/-- A partner that never answers. -/
def silent : State :=
  { plain 0x0800 with
    bus := { (plain 0x0800).bus with
      partner :=
        { samples := [⟨0x01, false, false, false, false⟩], mem := [], lines := { Lines.idle with ready := false } } } }

theorem witness_StuckReadyHoldsForEver :
    (fastRead ((slow []).policy 0x0300) = false ∧
      ∃ waits smp rest, (∀ w ∈ waits, w.ready = false) ∧ smp.ready = true ∧
        (slow []).bus.partner.samples = waits ++ smp :: rest) ∧
    (∀ w ∈ silent.bus.partner.samples, w.ready = false) ∧ silent.bus.partner.lines.ready = false ∧
    fastRead (silent.policy 0x0300) = false ∧ isJam .nop = false ∧
    fastRead (silent.policy (silent.cpu.pc + 1)) = false :=
  ⟨⟨by decide, [⟨0x01, false, false, false, false⟩, ⟨0x02, false, true, false, false⟩],
    ⟨0x03, true, false, true, false⟩, [], by decide, rfl, rfl⟩, by decide, rfl, by decide, rfl, by decide⟩

/-- The last byte of a dynamic window, whose region is not the device window, and the last of the device window. -/
theorem witness_MirroredByteIsReadBack : (0xBFFF : Addr) < State.reset.cfg.romBase ∧
    region State.reset.cfg 0xBFFF ≠ .device ∧ (0xCFFF : Addr) < State.reset.cfg.romBase ∧
    State.reset.cfg.devReadSource = .shadow ∧ classify State.reset.cfg 0xCFFF .allExternal ≠ .allExternal ∧ classify State.reset.cfg 0xBFFF .allFastInternal ≠ .allExternal ∧
    ∃ w t, memRead 0xBFFF
      { memWrite 0xBFFF 0x5A State.reset with
        bus := { (memWrite 0xBFFF 0x5A State.reset).bus with accel := .allFastInternal } } = some (w, t) :=
  ⟨by decide, by decide, by decide, rfl, by decide, by decide, _, _, rfl⟩

theorem witness_RomWindowGoesToTheBus : State.reset.cfg.windowsDisjoint = true ∧ State.reset.cfg.romBase ≤ 0xD000 ∧
    ∃ w t, memRead 0xD000 State.reset = some (w, t) := ⟨by decide, by decide, _, _, rfl⟩

/-- The matcher before the first key byte, before the last one, and before the selector. -/
theorem witness_MatcherStepsOnEachRead : (keyed [1]).cfg.matcherEnabled = true ∧
    fastRead ((keyed [1]).policy (keyed [1]).cfg.keyAddr) = false ∧
    (∃ v t, memRead (keyed [1]).cfg.keyAddr (keyed [1]) = some (v, t)) ∧
    (∃ v t, memFetch (keyed [1]).cfg.keyAddr (keyed [1]) = some (v, t)) ∧
    (keyed [1]).bus.matcher = (0 : Fin 4).castSucc ∧
    ({ (keyed [1]).bus with matcher := 3 } : Bus).matcher = (3 : Fin 4).castSucc ∧
    ({ (keyed [1]).bus with matcher := 4 } : Bus).matcher = 4 :=
  ⟨rfl, by decide, ⟨_, _, rfl⟩, ⟨_, _, rfl⟩, rfl, rfl, rfl⟩

/-- A block with a first and a last byte, and an address just past it. -/
theorem witness_LoaderCopiesItsBlock : [0x11#8, 0x22#8].length ≤ 65536 ∧ [0x11#8, 0x22#8][0]? = some 0x11#8 ∧
    [0x11#8, 0x22#8][1]? = some 0x22#8 ∧ [0x11#8, 0x22#8].length ≤ ((0x0802 : Addr) - 0x0800).toNat := by decide

theorem witness_BinaryAddWithCarry : State.reset.answered ∧ State.reset.flag .d = false := ⟨rfl, by decide⟩
theorem witness_BinarySubtractWithBorrow : State.reset.answered ∧ State.reset.flag .d = false := ⟨rfl, by decide⟩
theorem witness_DecimalArithmeticAndItsFlags :
    (State.reset.setP 0x38).answered ∧ (State.reset.setP 0x38).flag .d = true := ⟨rfl, by decide⟩
theorem witness_DecimalResultsAreDecimal : (0x58#8).toNat % 16 ≤ 9 ∧ (0x58#8).toNat / 16 ≤ 9 ∧
    (0x99#8).toNat % 16 ≤ 9 ∧ (0x99#8).toNat / 16 ≤ 9 := by decide
theorem witness_SubtractionUndoesAddition : State.reset.quiet ∧ State.reset.flag .d = false ∧
    State.reset.flag .c = false := ⟨⟨rfl, rfl, rfl⟩, by decide, by decide⟩
theorem witness_AndRotateRight : State.reset.answered ∧ State.reset.flag .d = false ∧
    (State.reset.setP 0x38).answered ∧ (State.reset.setP 0x38).flag .d = true := ⟨rfl, by decide, rfl, by decide⟩
theorem witness_UnstableOpcodesOnlyFetch : State.reset.answered ∧ State.reset.cfg.lxa = .nop2 ∧
    ({ Config.default with lxa := .laxImm } : Config).lxa = .laxImm := ⟨rfl, rfl, rfl⟩

/-- A branch taken and one not taken. -/
theorem witness_BranchesTestOneFlag : State.reset.answered ∧ State.reset.flag .c = false ∧
    State.reset.flag .c ≠ true := ⟨rfl, by decide, by decide⟩

theorem witness_ReturnsUndoTheirEntries : State.reset.quiet ∧ lo8 State.reset.cfg.stackBase = 0 ∧
    (∀ x, State.reset.stack x < State.reset.cfg.romBase) ∧ State.reset.flag .u = true := by
  refine ⟨⟨rfl, rfl, rfl⟩, by decide, fun x => ?_, by decide⟩
  revert x; decide

/-- Each clause: RESET, an NMI edge, an IRQ, nothing. -/
theorem witness_PollTakesOneRequestByPriority : State.reset.answered ∧
    (State.reset.sched.runMode = .running ∧ (nextLevels (polled 0x30 0x0800 ⟨true, true, true⟩)).resetL = true) ∧
    ((nextLevels (polled 0x30 0x0800 ⟨false, true, true⟩)).nmiL = true ∧ State.reset.sched.nmiPrev = false) ∧
    ((nextLevels (polled 0x30 0x0800 ⟨false, false, true⟩)).irqL = true ∧
      (polled 0x30 0x0800 ⟨false, false, true⟩).flag .i = false) ∧
    (nextLevels (polled 0x34 0x0800 ⟨false, false, false⟩)).irqL = false := by
  refine ⟨rfl, ?_⟩; decide

theorem witness_ResetSequenceLoadsTheVector : resetting.sched.halted = false ∧ resetting.sched.runMode = .resetting ∧
    nextCommand resetting = none ∧ resetting.answered ∧ resetting.cfg.resetFlags.getLsbD 5 = true :=
  ⟨rfl, rfl, rfl, rfl, by decide⟩

/-- The state after reset with LDA #$05 at `PC`, in `Running`. -/
theorem witness_StepRunsTheDecodedInstruction :
    let s := State.reset.withFetchWord 16 0x05A9
    s.sched.halted = false ∧ s.sched.runMode = .running ∧ s.sched.ir = none ∧ s.host = [] ∧ resetTaken s = false ∧
      nmiEdge s = false ∧ irqTaken s = false ∧ stopCondition s = false ∧ s.quiet ∧
      (∃ u, memFetch s.cpu.pc (consumePoll s) = some (0xA9, u)) ∧
      decode (0xA9 :: [0x05]) = .ok (⟨.ldaImm, [0x05]⟩, []) :=
  ⟨rfl, rfl, rfl, rfl, rfl, rfl, rfl, by decide, ⟨rfl, rfl, rfl⟩, ⟨_, rfl⟩, by decide⟩

theorem witness_PrefetchedOpcodeIsWhatRuns :
    let s := { waiting .step with host := [some (.writeByte 0x0800 0xEA), some .step] }
    s.sched.halted = false ∧ s.sched.runMode = .waiting ∧ s.sched.ir = some 0xA9 ∧
      s.host = [some (.writeByte s.cpu.pc 0xEA), some .step] ∧
      ({ s with host := [some (.writeByte s.cpu.pc 0xEA), some .run] } : State).host =
        [some (.writeByte s.cpu.pc 0xEA), some .run] ∧
      ¬ s.stopDue :=
  ⟨rfl, rfl, rfl, rfl, rfl, by rintro (h | h | ⟨_, _, h, _⟩ | h) <;> cases h⟩

/-- A breakpoint at `PC`, and each of the other three conditions; the run command and the stop with the opcode held. -/
theorem witness_StopConditionHoldsBeforeExecution : breaking.sched.halted = false ∧ breaking.sched.runMode = .running ∧
    breaking.sched.ir = none ∧ breaking.host = [] ∧ resetTaken breaking = false ∧ nmiEdge breaking = false ∧
    irqTaken breaking = false ∧ breaking.answered ∧ breaking.stopDue ∧
    ({ breaking.sched with runTo := some 0x0800 } : Scheduler).runTo = some breaking.cpu.pc ∧
    ¬ ((0x0801 : Addr) ≤ breaking.cpu.pc ∧ breaking.cpu.pc ≤ 0x0900) ∧
    ({ breaking.sched with cancelRequested := true } : Scheduler).cancelRequested = true ∧
    (waiting .run).sched.halted = false ∧ (waiting .run).sched.runMode = .waiting ∧
    (waiting .run).sched.ir = some 0xA9 ∧ (waiting .run).host = some .run :: [] ∧
    ({ breaking with sched := { breaking.sched with ir := some 0xA9 } } : State).stopDue :=
  ⟨rfl, rfl, rfl, rfl, rfl, rfl, rfl, rfl, .inl rfl, rfl, by decide, rfl, rfl, rfl, rfl, rfl, .inl rfl⟩

theorem witness_EveryFetchIsTracedOnce :
    (∃ t, step { plain 0x0800 with sched := { State.reset.sched with traceEnable := true } } = .next t ∧
      t.out.trace = [(0, 0x0800)]) ∧ ∃ t, step (waiting .step) = .next t := ⟨⟨_, rfl, rfl⟩, _, rfl⟩

/-- A setter with a value wider than its register, for each kind of register. -/
theorem witness_HostSetsRegistersMasked : (waiting (.setReg .p 0x1CF)).sched.halted = false ∧
    (waiting (.setReg .p 0x1CF)).host = some (.setReg .p 0x1CF) :: [] ∧
    (waiting (.setReg .pc 0x12345)).host = some (.setReg .pc 0x12345) :: [] := ⟨rfl, rfl, rfl⟩

theorem witness_HostReadsTheLockedState : (jammed [some .getHalted]).sched.halted = true ∧
    (jammed [some .getHalted]).host = some .getHalted :: [] ∧ (waiting .getHalted).sched.halted = false ∧
    (waiting .getHalted).host = some .getHalted :: [] := ⟨rfl, rfl, rfl, rfl⟩

end Sys2Proof.Tests
end

section
/-! The statements about the state (10_state): what reset leaves, what every step keeps, who writes the acceleration
level, and the host's register setters. All but the setters follow from `step_moves`, which says once what a step can
do. -/

namespace Sys2Proof.Machine

open Sys2Proof

/-- A command at the front of the queue that is acceptable is the one the step accepts (60_exceptions R446). -/
theorem nextCommand_of_accepted {s : State} {c : Command} {rest : List (Option Command)}
    (hq : s.host = some c :: rest) (ha : c.acceptedAt s = true) : nextCommand s = some c := by
  simp [nextCommand, hq, ha]

/-- A step that accepts a command is the effect of that command and nothing else. -/
theorem step_of_accepted {s : State} {c : Command} {rest : List (Option Command)} (hh : s.sched.halted = false)
    (hq : s.host = some c :: rest) (ha : c.acceptedAt s = true) :
    step s = complete (applyCommand c { s with host := rest }) := by
  have hd : s.dropSlot = { s with host := rest } := by simp [State.dropSlot, hq]
  simp [step, hh, nextCommand_of_accepted hq ha, hd]

end Sys2Proof.Machine

open Sys2Proof Sys2Proof.Machine

/-- Settles O7: whatever a step does is made of `Moves`, which keep the invariant, or is the host's call for the level,
which writes neither memory nor `P`. -/
theorem stepKeepsInvariant : Obligations.StepKeepsInvariant := by
  unfold Obligations.StepKeepsInvariant
  intro s t hs h
  rcases step_moves h with hm | ⟨l, -, rfl⟩
  · exact hm.inv hs
  · exact hs

/-- Settles O8: `Moves` write no shadow byte of the ROM window and no parameter, and the host's call for the level
writes the level only. -/
theorem stepNeverWritesShadowRom : Obligations.StepNeverWritesShadowRom := by
  unfold Obligations.StepNeverWritesShadowRom
  intro s t h
  rcases step_moves h with hm | ⟨l, -, rfl⟩
  · exact ⟨hm.cfg, fun a ha => hm.shadow_rom ha⟩
  · exact ⟨rfl, fun _ _ => rfl⟩

/-- Settles O11: `Moves` change the level only where the machine has the matcher and a bus read at `KEY_ADDR` is among
the new entries of the log; the one other way is the accepted `setAccel`. -/
theorem accelerationLevelIsWrittenByMatcherOrHost : Obligations.AccelerationLevelIsWrittenByMatcherOrHost := by
  unfold Obligations.AccelerationLevelIsWrittenByMatcherOrHost
  intro s t h hne
  rcases step_moves h with hm | ⟨l, hc, rfl⟩
  · obtain ⟨new, hlog, hkeep⟩ := hm.log
    have hseen : ¬ (s.cfg.matcherEnabled = false ∨ new.any (Access.isBusReadAt s.cfg.keyAddr) = false) :=
      fun hk => hne (hkeep hk).1
    rw [not_or, Bool.not_eq_false, Bool.not_eq_false] at hseen
    exact .inr ⟨hseen.1, new, hlog, hseen.2⟩
  · exact .inl hc

/-- Settles O59: `setReg` is acceptable at every boundary, so the step is its effect, register by register. -/
theorem hostSetsRegistersMasked : Obligations.HostSetsRegistersMasked := by
  unfold Obligations.HostSetsRegistersMasked
  intro s n rest hh r hq
  rw [step_of_accepted hh hq rfl]
  cases r with
  | a => rfl
  | x => rfl
  | y => rfl
  | sp => rfl
  | p => rfl
  | pc => rfl

/-- Settles O5: nothing is listed in either memory, and the flags are loaded with bit 5 set. -/
theorem resetMeetsInvariant : Obligations.ResetMeetsInvariant := by
  unfold Obligations.ResetMeetsInvariant
  exact ⟨Memory.wf_nil, Memory.wf_nil, flagsFrom_bit5 _⟩

/-- Settles O6: the fields of the literal state, and the two bytes that a read of the vector sees in it. -/
theorem resetLeavesTheStatedValues : Obligations.ResetLeavesTheStatedValues := by
  unfold Obligations.ResetLeavesTheStatedValues
  refine ⟨?pc, ?p, ?i, ?u, ?level, ?sched, ?matcher, ?ready, ?dataIn, ?internal⟩
  case pc => decide
  case p => decide
  case i => decide
  case u => exact flagsFrom_bit5 _
  all_goals rfl
end

section
/-! The statements about the memory (20_memory): the windows, what a read returns and observes, the hold at a READY that
never comes, the mirror below the ROM window, and the loader. What one bus read does to the bus unit is said once
(`readByte_value`, `readByte_onBus`, `readByte_matcher`), and so is what an instruction does first
(`exec_readsNextFirst`). -/

namespace Sys2Proof.Machine

open Sys2Proof

/-! ### The policies -/

theorem fastRead_iff (p : AccessPolicy) :
    fastRead p = true ↔ p = .readFastInternalWriteExternal ∨ p = .allFastInternal := by
  cases p <;> simp [fastRead]

theorem not_fastRead_iff (p : AccessPolicy) :
    fastRead p = false ↔ p = .allExternal ∨ p = .readInternalWriteExternal := by
  cases p <;> simp [fastRead]

/-- A read returns `DATA_IN` under AllExternal, and in the device window where `DEV_READ_SOURCE` is data_in (20_memory
R66, R71). -/
theorem returnsDataIn_iff (c : Config) (a : Addr) (p : AccessPolicy) :
    returnsDataIn c a p = true ↔ p = .allExternal ∨ (region c a = .device ∧ c.devReadSource = .dataIn) := by
  simp [returnsDataIn]

/-- The ROM window is external at every level (20_memory R63). -/
theorem classify_rom {c : Config} (h : c.windowsDisjoint = true) {a : Addr} (ha : c.romBase ≤ a) (l : AccelLevel) :
    classify c a l = .allExternal := by
  rw [classify_of_disjoint h, if_pos ha]

/-- An address in no window is external at every level (20_memory R63). -/
theorem classify_other {c : Config} (h : c.windowsDisjoint = true) {a : Addr} (hr : a < c.romBase)
    (hd : ¬ (c.devLo ≤ a ∧ a ≤ c.devHi)) (hw : ∀ w ∈ c.dynWindows, ¬ (w.lo ≤ a ∧ a ≤ w.hi)) (l : AccelLevel) :
    classify c a l = .allExternal := by
  have hr' : ¬ c.romBase ≤ a := by bv_omega
  have hw' : ¬ c.dynWindows.any (Window.holds · a) = true := by simpa [Window.holds] using hw
  rw [classify_of_disjoint h, if_neg hr', if_neg hd, if_neg hw']

/-- Windows that do not overlap: the device window ends below the ROM window, and so does each dynamic window, which
lies on one side of the device window (20_memory R64). -/
theorem windowsDisjoint_iff (c : Config) :
    c.windowsDisjoint = true ↔
      c.devHi < c.romBase ∧ ∀ w ∈ c.dynWindows, w.hi < c.romBase ∧ (w.hi < c.devLo ∨ c.devHi < w.lo) := by
  simp [Config.windowsDisjoint]

/-- The device window is internal for reads at every level (20_memory R63). -/
theorem classify_device {c : Config} (h : c.windowsDisjoint = true) {a : Addr} (hlo : c.devLo ≤ a) (hhi : a ≤ c.devHi)
    (l : AccelLevel) : classify c a l = .readInternalWriteExternal := by
  obtain ⟨hd, -⟩ := (windowsDisjoint_iff c).mp h
  have hr : ¬ c.romBase ≤ a := by bv_omega
  rw [classify_of_disjoint h, if_neg hr, if_pos ⟨hlo, hhi⟩]

/-- In a dynamic window the level is the policy (20_memory R63). -/
theorem classify_dynamic {c : Config} (h : c.windowsDisjoint = true) {a : Addr} {w : Window} (hw : w ∈ c.dynWindows)
    (hlo : w.lo ≤ a) (hhi : a ≤ w.hi) (l : AccelLevel) : classify c a l = l := by
  obtain ⟨-, hall⟩ := (windowsDisjoint_iff c).mp h
  obtain ⟨hrom, hside⟩ := hall w hw
  have hr : ¬ c.romBase ≤ a := by bv_omega
  have hd : ¬ (c.devLo ≤ a ∧ a ≤ c.devHi) := by bv_omega
  have hy : c.dynWindows.any (Window.holds · a) = true :=
    List.any_eq_true.mpr ⟨w, hw, by simp [Window.holds, hlo, hhi]⟩
  rw [classify_of_disjoint h, if_neg hr, if_neg hd, if_pos hy]

/-! ### What one read does -/

/-- `MemRead` is `readByte` on the bus unit, and nothing else of the machine changes (00_scope R10). -/
theorem memRead_readByte {a : Addr} {s t : State} {v : Byte} (h : memRead a s = some (v, t)) :
    readByte s.cfg a false false s.bus = some (v, t.bus) ∧ t = { s with bus := t.bus } := by
  unfold memRead at h
  split at h
  · rename_i w b hr
    obtain ⟨rfl, rfl⟩ := Prod.mk.inj (Option.some.inj h)
    exact ⟨hr, rfl⟩
  · cases h

/-- `MemFetch` is `readByte` on the bus unit, marked as a fetch, and draws one free value (00_scope R10). -/
theorem memFetch_readByte {a : Addr} {s t : State} {v : Byte} (h : memFetch a s = some (v, t)) :
    readByte s.cfg a true (syncAllowed s) s.bus = some (v, t.bus) ∧
      t = { s with bus := t.bus, free := s.free + 1 } := by
  unfold memFetch at h
  split at h
  · rename_i w b hr
    obtain ⟨rfl, rfl⟩ := Prod.mk.inj (Option.some.inj h)
    exact ⟨hr, rfl⟩
  · cases h

/-- SYNC is asserted on every fetch in SingleStep (20_memory R74). -/
theorem syncAllowed_singleStep {s : State} (h : s.sched.runMode = .singleStep) : syncAllowed s = true := by
  rw [syncAllowed, if_pos h]

/-- Outside SingleStep the parameter sync_in_running decides where it says it (20_memory R74). -/
theorem syncAllowed_elsewhere {s : State} (h : s.sched.runMode ≠ .singleStep) :
    (s.cfg.syncInRunning = .always → syncAllowed s = true) ∧
      (s.cfg.syncInRunning = .never → syncAllowed s = false) := by
  rw [syncAllowed, if_neg h]
  exact ⟨fun hc => by rw [hc], fun hc => by rw [hc]⟩

section
variable {c : Config} {a : Addr} {fetch sync : Bool} {b b' : Bus} {v : Byte}
  (h : readByte c a fetch sync b = some (v, b'))
include h

/-- A fast read changes only `last_access_internal` and the log (20_memory R66, R67). -/
theorem readByte_fast (hf : fastRead (classify c a b.accel) = true) :
    v = b.shadow.get a ∧ b' = { b with lastInternal := true, log := .read a fetch false false :: b.log } := by
  rcases readByte_cases h with ⟨-, he⟩ | ⟨hn, -⟩
  · exact Prod.mk.inj he
  · simp [hf] at hn

/-- The byte a read returns: the sampled one where the policy says `DATA_IN`, the shadow byte elsewhere (20_memory
R66, R71). -/
theorem readByte_value :
    v = if returnsDataIn c a (classify c a b.accel) then b'.snap.dataIn else b.shadow.get a := by
  rcases readByte_cases h with ⟨hf, -⟩ | ⟨-, smp, p, -, he⟩
  · simpa [returnsDataIn_of_fast hf] using (readByte_fast h hf).1
  · obtain ⟨rfl, rfl⟩ := Prod.mk.inj he
    simp

/-- A read that is not fast is one bus transaction that ends at a sample with READY active (20_memory R66, R73). -/
theorem readByte_onBus (hf : fastRead (classify c a b.accel) = false) :
    b'.snap.ready = true ∧ b'.lastInternal = false ∧ b'.log = .read a fetch true sync :: b.log := by
  rcases readByte_cases h with ⟨hn, -⟩ | ⟨-, smp, p, hp, he⟩
  · simp [hf] at hn
  · obtain ⟨-, rfl⟩ := Prod.mk.inj he
    obtain ⟨-, -, -, hr⟩ := Partner.answer_frame hp
    exact ⟨by simpa using hr, by simp, by simp⟩

/-- At `KEY_ADDR` the matcher, where there is one, observes the sampled byte of a bus read, in the state and at the
level it had before (20_memory R66, R72). -/
theorem readByte_matcher (ha : a = c.keyAddr) (hm : c.matcherEnabled = true)
    (hf : fastRead (classify c a b.accel) = false) :
    ∃ u, b' = matcherObserve c b'.snap.dataIn u ∧ u.matcher = b.matcher ∧ u.accel = b.accel := by
  rcases readByte_cases h with ⟨hn, -⟩ | ⟨-, smp, p, -, he⟩
  · simp [hf] at hn
  · obtain ⟨-, rfl⟩ := Prod.mk.inj he
    refine ⟨{ b with snap := smp, lastInternal := false, partner := p, log := .read a fetch true sync :: b.log },
      ?_, rfl, rfl⟩
    rw [observe_snap, observe, if_pos ⟨ha, hm⟩]

end

/-! ### The matcher -/

/-- In state 4 the observed byte is the selector (20_memory R72). -/
theorem matcherObserve_selector (c : Config) (d : Byte) {b : Bus} (h : b.matcher = 4) :
    (matcherObserve c d b).matcher = 0 ∧
      (matcherObserve c d b).accel = (selectorOf c.selector d).getD b.accel := by
  rw [matcherObserve, if_pos h]
  cases selectorOf c.selector d <;> exact ⟨rfl, rfl⟩

/-- `KEY_SEQ[k]` of the model is entry `k` of the key sequence. -/
theorem keyByte_castSucc (c : Config) (k : Fin 4) : keyByte c k.castSucc = ![c.key0, c.key1, c.key2, c.key3] k := by
  fin_cases k <;> rfl

/-- Before state 4 the observed byte advances the matcher, restarts it or returns it to 0 (20_memory R72). -/
theorem matcherObserve_key (c : Config) (d : Byte) {b : Bus} {k : Fin 4} (h : b.matcher = k.castSucc) :
    (matcherObserve c d b).accel = b.accel ∧
      (matcherObserve c d b).matcher =
        if d = ![c.key0, c.key1, c.key2, c.key3] k then k.succ else if d = c.key0 then 1 else 0 := by
  have h4 : b.matcher ≠ 4 := by rw [h]; exact (Fin.castSucc_lt_last k).ne
  have hs : b.matcher + 1 = k.succ := by rw [h]; exact Fin.coeSucc_eq_succ
  rw [matcherObserve, if_neg h4, hs, h, keyByte_castSucc]
  split_ifs <;> exact ⟨rfl, rfl⟩

/-! ### READY -/

/-- The samples without READY before the first one with READY are skipped (20_memory R66). -/
theorem firstReady_append {waits : List Sample} (hw : ∀ w ∈ waits, w.ready = false) {smp : Sample}
    (hs : smp.ready = true) (rest : List Sample) : firstReady (waits ++ smp :: rest) = some (smp, rest) := by
  induction waits with
  | nil => simp [firstReady, hs]
  | cons w ws ih =>
    rw [List.forall_mem_cons] at hw
    simpa [firstReady, hw.1] using ih hw.2

theorem firstReady_none {l : List Sample} (hl : ∀ w ∈ l, w.ready = false) : firstReady l = none := by
  induction l with
  | nil => rfl
  | cons w ws ih =>
    rw [List.forall_mem_cons] at hl
    simpa [firstReady, hl.1] using ih hl.2

/-- A read that is not fast takes the answer of the partner as its sample (20_memory R66). -/
theorem memRead_of_answer {s : State} {a : Addr} {smp : Sample} {p : Partner}
    (hf : fastRead (s.policy a) = false) (hp : s.bus.partner.answer a = some (smp, p)) :
    ∃ v t, memRead a s = some (v, t) ∧ t.bus.snap = smp ∧ t.bus.partner = p := by
  unfold State.policy at hf
  have h : readByte s.cfg a false false s.bus = some (busRead s.cfg a false false smp p s.bus) := by
    simp [readByte, hf, hp]
  exact ⟨_, _, by rw [memRead, h], by simp [busRead], by simp [busRead]⟩

/-- A read that is not fast does not complete where the partner does not answer (20_memory R73). -/
theorem memRead_of_no_answer {s : State} {a : Addr} (hf : fastRead (s.policy a) = false)
    (hp : s.bus.partner.answer a = none) : memRead a s = none := by
  unfold State.policy at hf
  simp [memRead, readByte, hf, hp]

/-! ### What an instruction does first -/

/-- From `s` the operation begins with the read of the byte after the opcode. -/
def ReadsNextFirst {α : Type} (s : State) (r : Option α) : Prop :=
  ∃ f : Byte × State → Option α, r = memRead (s.cpu.pc + 1) s >>= f

theorem ReadsNextFirst.bind {α β : Type} {s : State} {r : Option α} (h : ReadsNextFirst s r) (g : α → Option β) :
    ReadsNextFirst s (r >>= g) := by
  obtain ⟨f, rfl⟩ := h
  exact ⟨fun x => f x >>= g, bind_assoc _ _ _⟩

/-- An operation that begins with a read that does not complete does not complete. -/
theorem ReadsNextFirst.eq_none {α : Type} {s : State} {r : Option α} (h : ReadsNextFirst s r)
    (hn : memRead (s.cpu.pc + 1) s = none) : r = none := by
  obtain ⟨f, rfl⟩ := h
  rw [hn]
  rfl

theorem amImp_readsNextFirst (s : State) : ReadsNextFirst s (amImp s) := ⟨_, rfl⟩

theorem operandWord_readsNextFirst (s : State) : ReadsNextFirst s (operandWord s) := ⟨_, rfl⟩

/-- Every mode but the immediate one, which reads nothing, begins with an operand byte (40_addressing R144 to R150). -/
theorem effAddr_readsNextFirst (s : State) {m : AddrMode} (k : AccessKind) (hm : m ≠ .imm) :
    ReadsNextFirst s (effAddr m k s) := by
  cases m with
  | imm => exact absurd rfl hm
  | zp | zpx | zpy | izx | izy => exact ⟨_, rfl⟩
  | abs => exact operandWord_readsNextFirst s
  | abx | aby => exact (operandWord_readsNextFirst s).bind _

/-- In the immediate mode the operand itself is the byte after the opcode (40_addressing R144). -/
theorem readOp_readsNextFirst (m : AddrMode) (s : State) : ReadsNextFirst s (readOp m s) := by
  by_cases hm : m = .imm
  · subst hm
    exact ⟨some, (bind_pure (memRead (s.cpu.pc + 1) s)).symm⟩
  · exact (effAddr_readsNextFirst s .read hm).bind _

theorem writeOp_readsNextFirst (s : State) {m : AddrMode} (v : Byte) (hm : m ≠ .imm) :
    ReadsNextFirst s (writeOp m v s) :=
  (effAddr_readsNextFirst s .write hm).bind _

theorem rmwOp_readsNextFirst (s : State) {m : AddrMode} (f : ByteOp) (hm : m ≠ .imm) :
    ReadsNextFirst s (rmwOp m f s) :=
  (effAddr_readsNextFirst s .rmw hm).bind _

/-- Both behaviours of LXA begin with their operand byte (46_illegal R371). -/
theorem lxa_readsNextFirst (s : State) : ReadsNextFirst s (lxa s) := by
  unfold lxa
  split
  · exact ⟨_, rfl⟩
  · exact (readOp_readsNextFirst .imm s).bind _

/-- Every instruction but a JAM begins with the read of the byte after its opcode. The instructions are listed by the
operation they begin with: the dummy read of an implied one, a read, a write or a read-modify-write of an operand, an
address operand, one operand byte. -/
theorem exec_readsNextFirst (i : Instr) (s : State) (hj : isJam i = false) :
    ∃ r, ReadsNextFirst s r ∧ exec i s = complete r := by
  cases i with
  | brk | php | aslAcc | rolAcc | lsrAcc | rorAcc | clc | sec | cli | sei | clv | cld | sed | nop1A | nop3A | nop5A
  | nop7A | nopDA | nop | nopFA | plp | rti | pha | rts | pla | dey | txa | tya | txs | tay | tax | tsx | iny | dex
  | inx =>
    exact ⟨_, (amImp_readsNextFirst s).bind _, rfl⟩
  | oraIzx | oraZp | oraImm | oraAbs | oraIzy | oraZpx | oraAby | oraAbx | nop04 | nop0C | nop14 | nop1C | nop34
  | nop3C | nop44 | nop54 | nop5C | nop64 | nop74 | nop7C | nop80 | nop82 | nop89 | nopC2 | nopD4 | nopDC | nopE2
  | nopF4 | nopFC | anc0B | anc2B | andIzx | andZp | andImm | andAbs | andIzy | andZpx | andAby | andAbx | bitZp
  | bitAbs | eorIzx | eorZp | eorImm | eorAbs | eorIzy | eorZpx | eorAby | eorAbx | alrImm | adcIzx | adcZp
  | adcImm | adcAbs | adcIzy | adcZpx | adcAby | adcAbx | arrImm | ldyImm | ldyZp | ldyAbs | ldyZpx | ldyAbx
  | ldaIzx | ldaZp | ldaImm | ldaAbs | ldaIzy | ldaZpx | ldaAby | ldaAbx | ldxImm | ldxZp | ldxAbs | ldxZpy
  | ldxAby | laxIzx | laxZp | laxAbs | laxIzy | laxZpy | laxAby | lasAby | cpyImm | cpyZp | cpyAbs | cmpIzx | cmpZp
  | cmpImm | cmpAbs | cmpIzy | cmpZpx | cmpAby | cmpAbx | sbxImm | cpxImm | cpxZp | cpxAbs | sbcIzx | sbcZp
  | sbcImm | sbcImmEB | sbcAbs | sbcIzy | sbcZpx | sbcAby | sbcAbx =>
    exact ⟨_, (readOp_readsNextFirst _ s).bind _, rfl⟩
  | staIzx | staZp | staAbs | staIzy | staZpx | staAby | staAbx | saxIzx | saxZp | saxAbs | saxZpy | styZp | styAbs
  | styZpx | stxZp | stxAbs | stxZpy =>
    exact ⟨_, (writeOp_readsNextFirst s _ (by decide)).bind _, rfl⟩
  | sloIzx | sloZp | sloAbs | sloIzy | sloZpx | sloAby | sloAbx | aslZp | aslAbs | aslZpx | aslAbx | rolZp | rolAbs
  | rolZpx | rolAbx | lsrZp | lsrAbs | lsrZpx | lsrAbx | rorZp | rorAbs | rorZpx | rorAbx | decZp | decAbs | decZpx
  | decAbx | incZp | incAbs | incZpx | incAbx | rlaIzx | rlaZp | rlaAbs | rlaIzy | rlaZpx | rlaAby | rlaAbx
  | sreIzx | sreZp | sreAbs | sreIzy | sreZpx | sreAby | sreAbx | rraIzx | rraZp | rraAbs | rraIzy | rraZpx
  | rraAby | rraAbx | dcpIzx | dcpZp | dcpAbs | dcpIzy | dcpZpx | dcpAby | dcpAbx | iscIzx | iscZp | iscAbs
  | iscIzy | iscZpx | iscAby | iscAbx =>
    exact ⟨_, (rmwOp_readsNextFirst s _ (by decide)).bind _, rfl⟩
  | jmpAbs | jmpInd | tasAby | shyAbx | shxAby | shaAby =>
    exact ⟨_, (operandWord_readsNextFirst s).bind _, rfl⟩
  | bpl | bmi | bvc | bvs | bcc | bcs | bne | beq | jsr | aneImm | shaIzy =>
    exact ⟨_, ⟨_, rfl⟩, rfl⟩
  | lxaImm =>
    exact ⟨_, lxa_readsNextFirst s, rfl⟩
  | jam02 | jam12 | jam22 | jam32 | jam42 | jam52 | jam62 | jam72 | jam92 | jamB2 | jamD2 | jamF2 =>
    exact absurd hj (by decide)

end Sys2Proof.Machine

open Sys2Proof Sys2Proof.Machine

/-- Settles O14: one lemma for each kind of window; the default windows do not overlap, and an address below the
device window lies in the one dynamic window. -/
theorem classifierFollowsTheWindows : Obligations.ClassifierFollowsTheWindows := by
  unfold Obligations.ClassifierFollowsTheWindows
  have hdef : Config.default.windowsDisjoint = true := by decide
  refine ⟨fun c a l h => ⟨?rom, ?device, ?dynamic, ?other⟩, hdef, fun a l => ?default⟩
  case rom => exact fun ha => classify_rom h ha l
  case device => exact fun hlo hhi => classify_device h hlo hhi l
  case dynamic => exact fun ⟨w, hw, hlo, hhi⟩ => classify_dynamic h hw hlo hhi l
  case other => exact fun hr hd hw => classify_other h hr hd hw l
  case default =>
    by_cases hrom : 0xD000#16 ≤ a
    · rw [if_pos hrom, classify_rom hdef hrom]
    · rw [if_neg hrom]
      by_cases hdev : 0xC000#16 ≤ a
      · have hhi : a ≤ 0xCFFF#16 := by bv_omega
        rw [if_pos hdev, classify_device hdef hdev hhi]
      · have hhi : a ≤ 0xBFFF#16 := by bv_omega
        have hw : (⟨0x0000, 0xBFFF⟩ : Window) ∈ Config.default.dynWindows := List.mem_singleton.mpr rfl
        rw [if_neg hdev, classify_dynamic hdef hw (Nat.zero_le a.toNat) hhi]

/-- Settles O15: `MemRead` and `MemFetch` are `readByte`, which is fast or one bus transaction as the policy says. -/
theorem readsFollowThePolicy : Obligations.ReadsFollowThePolicy := by
  unfold Obligations.ReadsFollowThePolicy
  refine ⟨fun s t a v h => ?read, fun s t a v h => ?fetch⟩
  case read =>
    obtain ⟨hb, ht⟩ := memRead_readByte h
    refine ⟨fun hp => ?_, fun hp => ?_⟩
    · obtain ⟨hv, hbus⟩ := readByte_fast hb ((fastRead_iff _).mpr hp)
      exact ⟨hv, by rw [ht, hbus]⟩
    · obtain ⟨hr, hi, hl⟩ := readByte_onBus hb ((not_fastRead_iff _).mpr hp)
      exact ⟨ht, hr, hi, hl, (readByte_value hb).trans (if_congr (returnsDataIn_iff _ _ _) rfl rfl)⟩
  case fetch =>
    obtain ⟨hb, ht⟩ := memFetch_readByte h
    refine ⟨fun hp => ?_, fun hp => ?_⟩
    · obtain ⟨hv, hbus⟩ := readByte_fast hb ((fastRead_iff _).mpr hp)
      exact ⟨hv, by rw [ht, hbus]⟩
    · obtain ⟨hr, hi, hl⟩ := readByte_onBus hb ((not_fastRead_iff _).mpr hp)
      exact ⟨ht, hr, hi, ⟨_, hl, syncAllowed_singleStep, syncAllowed_elsewhere⟩,
        (readByte_value hb).trans (if_congr (returnsDataIn_iff _ _ _) rfl rfl)⟩

/-- Settles O16: the partner's answer is the first sample with READY; where it has none the read of the byte after the
opcode, with which every instruction but a JAM begins, does not complete. -/
theorem stuckReadyHoldsForEver : Obligations.StuckReadyHoldsForEver := by
  unfold Obligations.StuckReadyHoldsForEver
  refine ⟨fun s a waits smp rest hf hw hr hs => ?first, fun s hs hl => ?hold⟩
  case first =>
    have hp : s.bus.partner.answer a = some (smp, { s.bus.partner with samples := rest }) := by
      rw [Partner.answer, hs, firstReady_append hw hr]
    obtain ⟨v, t, h, hsnap, hpart⟩ := memRead_of_answer hf hp
    exact ⟨v, t, h, hsnap, by rw [hpart]⟩
  case hold =>
    have hread : ∀ a, fastRead (s.policy a) = false → memRead a s = none := fun a hf =>
      memRead_of_no_answer hf (by simp [Partner.answer, firstReady_none hs, hl])
    refine ⟨hread, fun i hj hf => ?_⟩
    obtain ⟨r, hfirst, hexec⟩ := exec_readsNextFirst i s hj
    rw [hexec, hfirst.eq_none (hread _ hf)]
    rfl

/-- Settles O17: the write mirrors the byte into the shadow memory, and an internal policy reads it there. -/
theorem mirroredByteIsReadBack : Obligations.MirroredByteIsReadBack := by
  unfold Obligations.MirroredByteIsReadBack
  intro s t a v w l ha hdev hint h
  have hst := memWrite_stored a v s
  obtain ⟨hb, -⟩ := memRead_readByte h
  have hshadow : ¬ returnsDataIn s.cfg a (classify s.cfg a l) = true := by
    rw [returnsDataIn_iff]
    rintro (he | ⟨hreg, hsrc⟩)
    · exact hint he
    · rw [hdev hreg] at hsrc; cases hsrc
  have hv := readByte_value hb
  rw [memWrite_cfg, if_neg hshadow] at hv
  rw [hv, hst.shadow, if_pos ⟨rfl, ha⟩]

/-- Settles O18: in the ROM window the policy is AllExternal at every level, so the write is not mirrored and not fast,
and the read returns the sampled byte. -/
theorem romWindowGoesToTheBus : Obligations.RomWindowGoesToTheBus := by
  unfold Obligations.RomWindowGoesToTheBus
  intro s a v hd ha
  have hp : s.policy a = .allExternal := classify_rom hd ha _
  have hst := memWrite_stored a v s
  refine ⟨fun b => ?shadow, ?log, fun b => ?partner, fun w t h => ?read⟩
  case shadow =>
    have hn : ¬ (b = a ∧ a < s.cfg.romBase) := by bv_omega
    rw [hst.shadow, if_neg hn]
  case log => rw [hst.log, State.writeEntry, hp]; rfl
  case partner => rw [hst.partnerMem]; simp [hp]
  case read =>
    obtain ⟨hb, -⟩ := memRead_readByte h
    have hdata : returnsDataIn s.cfg a (classify s.cfg a s.bus.accel) = true :=
      (returnsDataIn_iff _ _ _).mpr (.inl hp)
    obtain ⟨hshadow, -⟩ := readByte_frame hb
    exact ⟨by simpa [hdata] using readByte_value hb, hshadow⟩

/-- Settles O19: either read is a `readByte` at `KEY_ADDR`, in which the matcher observes the sampled byte. -/
theorem matcherStepsOnEachRead : Obligations.MatcherStepsOnEachRead := by
  unfold Obligations.MatcherStepsOnEachRead
  intro s t v h hm hf
  have hb : ∃ fetch sync, readByte s.cfg s.cfg.keyAddr fetch sync s.bus = some (v, t.bus) := by
    rcases h with h | h
    · exact ⟨_, _, (memRead_readByte h).1⟩
    · exact ⟨_, _, (memFetch_readByte h).1⟩
  obtain ⟨fetch, sync, hb⟩ := hb
  obtain ⟨u, hobs, hum, hua⟩ := readByte_matcher hb rfl hm hf
  rw [← hum, ← hua]
  refine ⟨fun h4 => ?_, fun k hk => ?_⟩
  · have := matcherObserve_selector s.cfg t.bus.snap.dataIn h4
    rwa [← hobs] at this
  · have := matcherObserve_key s.cfg t.bus.snap.dataIn hk
    rwa [← hobs] at this

/-- Settles O20: power-on stores the block into the shadow memory and puts an empty slot before the host's commands. -/
theorem loaderCopiesItsBlock : Obligations.LoaderCopiesItsBlock := by
  unfold Obligations.LoaderCopiesItsBlock
  intro s base bytes hl
  obtain ⟨hout, hin⟩ := Memory.get_setBlock s.bus.shadow base bytes hl
  exact ⟨hin, hout, rfl, rfl, rfl, rfl⟩
end

section
/-! The statements about the encoding (30_encoding): the opcode byte and the matrix are inverse to each other, and
`decode_ok_iff` says once what the decoder answers. -/

namespace Sys2Proof

open Sys2Proof.Laws.Encoding

/-- The laws of the single instructions together, row by row as in the opcode matrix (30_encoding R115). -/
theorem encodingLaw (i : Instr) : Statement i := by
  cases i
  exacts [
    brk, oraIzx, jam02, sloIzx, nop04, oraZp, aslZp, sloZp, php, oraImm, aslAcc, anc0B, nop0C, oraAbs, aslAbs, sloAbs,
    bpl, oraIzy, jam12, sloIzy, nop14, oraZpx, aslZpx, sloZpx, clc, oraAby, nop1A, sloAby, nop1C, oraAbx, aslAbx, sloAbx,
    jsr, andIzx, jam22, rlaIzx, bitZp, andZp, rolZp, rlaZp, plp, andImm, rolAcc, anc2B, bitAbs, andAbs, rolAbs, rlaAbs,
    bmi, andIzy, jam32, rlaIzy, nop34, andZpx, rolZpx, rlaZpx, sec, andAby, nop3A, rlaAby, nop3C, andAbx, rolAbx, rlaAbx,
    rti, eorIzx, jam42, sreIzx, nop44, eorZp, lsrZp, sreZp, pha, eorImm, lsrAcc, alrImm, jmpAbs, eorAbs, lsrAbs, sreAbs,
    bvc, eorIzy, jam52, sreIzy, nop54, eorZpx, lsrZpx, sreZpx, cli, eorAby, nop5A, sreAby, nop5C, eorAbx, lsrAbx, sreAbx,
    rts, adcIzx, jam62, rraIzx, nop64, adcZp, rorZp, rraZp, pla, adcImm, rorAcc, arrImm, jmpInd, adcAbs, rorAbs, rraAbs,
    bvs, adcIzy, jam72, rraIzy, nop74, adcZpx, rorZpx, rraZpx, sei, adcAby, nop7A, rraAby, nop7C, adcAbx, rorAbx, rraAbx,
    nop80, staIzx, nop82, saxIzx, styZp, staZp, stxZp, saxZp, dey, nop89, txa, aneImm, styAbs, staAbs, stxAbs, saxAbs,
    bcc, staIzy, jam92, shaIzy, styZpx, staZpx, stxZpy, saxZpy, tya, staAby, txs, tasAby, shyAbx, staAbx, shxAby, shaAby,
    ldyImm, ldaIzx, ldxImm, laxIzx, ldyZp, ldaZp, ldxZp, laxZp, tay, ldaImm, tax, lxaImm, ldyAbs, ldaAbs, ldxAbs, laxAbs,
    bcs, ldaIzy, jamB2, laxIzy, ldyZpx, ldaZpx, ldxZpy, laxZpy, clv, ldaAby, tsx, lasAby, ldyAbx, ldaAbx, ldxAby, laxAby,
    cpyImm, cmpIzx, nopC2, dcpIzx, cpyZp, cmpZp, decZp, dcpZp, iny, cmpImm, dex, sbxImm, cpyAbs, cmpAbs, decAbs, dcpAbs,
    bne, cmpIzy, jamD2, dcpIzy, nopD4, cmpZpx, decZpx, dcpZpx, cld, cmpAby, nopDA, dcpAby, nopDC, cmpAbx, decAbx, dcpAbx,
    cpxImm, sbcIzx, nopE2, iscIzx, cpxZp, sbcZp, incZp, iscZp, inx, sbcImm, nop, sbcImmEB, cpxAbs, sbcAbs, incAbs, iscAbs,
    beq, sbcIzy, jamF2, iscIzy, nopF4, sbcZpx, incZpx, iscZpx, sed, sbcAby, nopFA, iscAby, nopFC, sbcAbx, incAbx, iscAbx]

/-- Every instruction is what the matrix holds at its opcode byte (30_encoding R110). -/
@[simp] theorem decodeOpcode_opcode (i : Instr) : decodeOpcode i.opcode = i := (encodingLaw i).1

/-- The formats have one to three bytes (30_encoding R111). -/
theorem Instr.length_bounds (i : Instr) : 1 ≤ i.length ∧ i.length ≤ 3 := (encodingLaw i).2

/-- The entry of the matrix in row `r` and column `c` has the opcode byte with the nibbles `r` and `c` (30_encoding
R115). -/
theorem opcode_matrixEntry (r c : Fin 16) :
    ((opcodeMatrix.getD r []).getD c .nop).opcode = BitVec.ofNat 8 (16 * r + c) := by
  decide +revert

/-- Every byte is the opcode byte of the instruction it selects (30_encoding R110). -/
@[simp] theorem opcode_decodeOpcode (b : Byte) : (decodeOpcode b).opcode = b := by
  have hr : b.toNat / 16 < 16 := by omega
  have hc : b.toNat % 16 < 16 := Nat.mod_lt _ (by decide)
  have h := opcode_matrixEntry ⟨b.toNat / 16, hr⟩ ⟨b.toNat % 16, hc⟩
  rwa [Nat.div_add_mod, BitVec.ofNat_toNat, BitVec.setWidth_eq] at h

/-- A code is well formed when its operand bytes and the opcode byte make up the instruction's length (30_encoding
R111). -/
theorem Code.wf_iff (c : Code) : c.wf = true ↔ c.operands.length + 1 = c.instr.length := by
  simp [Code.wf]

/-- From bytes that begin with `b` the decoder answers exactly the well-formed codes of the instruction of `b` whose
operand bytes come next (30_encoding R111, R118). -/
theorem decode_cons_ok_iff (b : Byte) (tail : List Byte) (c : Code) (rest : List Byte) :
    decode (b :: tail) = .ok (c, rest) ↔ c.instr = decodeOpcode b ∧ c.wf = true ∧ c.operands ++ rest = tail := by
  obtain ⟨i, ops⟩ := c
  obtain ⟨hone, -⟩ := (decodeOpcode b).length_bounds
  rw [Code.wf_iff]
  constructor
  · intro h
    simp only [decode] at h
    split at h
    · cases h
    · cases h
      refine ⟨rfl, ?_, List.take_append_drop _ _⟩
      rw [List.length_take]
      dsimp only
      omega
  · rintro ⟨rfl, hlen, rfl⟩
    dsimp only at hlen
    simp [decode, ← hlen]

/-- The decoder answers a code with the bytes left exactly when the code is well formed and the bytes are its encoding
followed by those left (30_encoding R110 to R112). -/
theorem decode_ok_iff (bytes : List Byte) (c : Code) (rest : List Byte) :
    decode bytes = .ok (c, rest) ↔ c.wf = true ∧ encode c ++ rest = bytes := by
  cases bytes with
  | nil => simp [decode, encode]
  | cons b tail =>
    have hop : c.instr = decodeOpcode b ↔ c.instr.opcode = b :=
      ⟨fun h => by rw [h, opcode_decodeOpcode], fun h => by rw [← h, decodeOpcode_opcode]⟩
    rw [decode_cons_ok_iff, hop, encode, List.cons_append, List.cons_eq_cons]
    exact and_left_comm

end Sys2Proof

open Sys2Proof

/-- Settles O1: the direction of `decode_ok_iff` from the encoding to the answer. -/
theorem decodeInvertsEncode : Obligations.DecodeInvertsEncode := by
  unfold Obligations.DecodeInvertsEncode
  exact fun c rest hwf => (decode_ok_iff _ c rest).mpr ⟨hwf, rfl⟩

/-- Settles O2: the direction of `decode_ok_iff` from the answer to the encoding. -/
theorem encodeInvertsDecode : Obligations.EncodeInvertsDecode := by
  unfold Obligations.EncodeInvertsDecode
  exact fun bytes c rest => (decode_ok_iff bytes c rest).mp

/-- Settles O3: the matrix and the opcode bytes are inverse to each other, and as no instruction is longer than three
bytes, two bytes after the opcode are enough operands. -/
theorem everyByteIsOneInstruction : Obligations.EveryByteIsOneInstruction := by
  unfold Obligations.EveryByteIsOneInstruction
  refine ⟨opcode_decodeOpcode, decodeOpcode_opcode, fun b x y rest => ?_⟩
  have hsplit (n : Nat) : [x, y].take n ++ ([x, y].drop n ++ rest) = x :: y :: rest := by
    rw [← List.append_assoc, List.take_append_drop]; rfl
  refine ⟨⟨decodeOpcode b, _⟩, _, (decode_cons_ok_iff ..).mpr ⟨rfl, ?wf, hsplit _⟩, rfl, rfl⟩
  obtain ⟨hone, hthree⟩ := (decodeOpcode b).length_bounds
  rw [Code.wf_iff, List.length_take]
  simp only [List.length_cons, List.length_nil]
  omega

/-- Settles O4: by `decode_ok_iff`, for the thirteen codes are well formed and encode to the words written out. -/
theorem writtenOutWordsDecode : Obligations.WrittenOutWordsDecode := by
  unfold Obligations.WrittenOutWordsDecode
  simp only [decode_ok_iff]
  decide
end

section
/-! The statements about loads, stores and register transfers (41_load_store_transfer). Each kind of instruction
gets one lemma for what its meaning answers after its accesses, and one for its dispatch where it has several forms; the
shapes `readForms_of_result`, `writeForms_of` and `implied_of_result` do the rest. -/

namespace Sys2Proof.Machine

open Sys2Proof

/-! ### The shapes of instructions -/

/-- Forms listed with the opcode bytes of their instructions are decoded to them. -/
theorem forms_dispatch {forms : List Form} {op : AddrMode → State → Option State} {s : State}
    (hb : ∀ f ∈ forms, f.instr.opcode = f.byte) (he : ∀ f ∈ forms, exec f.instr s = complete (op f.mode s)) :
    ∀ f ∈ forms, decodeOpcode f.byte = f.instr ∧ exec f.instr s = complete (op f.mode s) :=
  fun f hf => ⟨by rw [← hb f hf, decodeOpcode_opcode], he f hf⟩

/-- What to show for an instruction that reads its operand `v` and sets N and Z from a result `r v`. -/
theorem readForms_of_result {s : State} {forms : List Form} {regs : Byte → Cpu} {r : Byte → Byte}
    {op : AddrMode → State → Option State} (ha : s.answered)
    (hf : ∀ f ∈ forms, decodeOpcode f.byte = f.instr ∧ exec f.instr s = complete (op f.mode s))
    (hop : ∀ m v u, readOp m s = some (v, u) → u.cpu = s.cpu →
      op m s = some { u with cpu := { regs v with p := putNZ (r v) s.cpu.p, pc := s.cpu.pc + m.length } }) :
    s.readForms forms regs (fun v => flagsNZ (r v)) :=
  readForms_of ha hf fun m v u hu hc => ⟨_, flagsAre_putNZ' (r v) s.cpu.p, hop m v u hu hc⟩

/-- What to show for an instruction of one byte that sets N and Z from a result `r`. -/
theorem implied_of_result {s : State} {i : Instr} {byte : Byte} {regs : Cpu} {r : Byte} {op : State → Option State}
    (ha : s.answered) (hd : decodeOpcode byte = i) (hf : exec i s = complete (op s))
    (hop : ∀ u, amImp s = some u → u.cpu = s.cpu →
      op s = some { u with cpu := { regs with p := putNZ r s.cpu.p, pc := s.cpu.pc + 1 } }) :
    s.implied i byte regs (flagsNZ r) :=
  implied_of ha hd hf fun u hu hc => ⟨_, flagsAre_putNZ' r s.cpu.p, hop u hu hc⟩

/-! ### Loads -/

/-- The opcode bytes of LDA select it, and `exec` runs it with the mode of the form (R180). -/
theorem exec_ldaForms (s : State) :
    ∀ f ∈ ldaForms, decodeOpcode f.byte = f.instr ∧ exec f.instr s = complete (lda f.mode s) :=
  forms_dispatch (by decide) fun f hf => by fin_cases hf <;> rfl

/-- The opcode bytes of LDX select it, and `exec` runs it with the mode of the form (R181). -/
theorem exec_ldxForms (s : State) :
    ∀ f ∈ ldxForms, decodeOpcode f.byte = f.instr ∧ exec f.instr s = complete (ldx f.mode s) :=
  forms_dispatch (by decide) fun f hf => by fin_cases hf <;> rfl

/-- The opcode bytes of LDY select it, and `exec` runs it with the mode of the form (R182). -/
theorem exec_ldyForms (s : State) :
    ∀ f ∈ ldyForms, decodeOpcode f.byte = f.instr ∧ exec f.instr s = complete (ldy f.mode s) :=
  forms_dispatch (by decide) fun f hf => by fin_cases hf <;> rfl

section
variable {m : AddrMode} {v : Byte} {s u : State} (h : readOp m s = some (v, u))
include h

theorem lda_of_readOp : lda m s = some (((u.setA v).setNZ v).advance m.length) := by
  rw [lda, h]; rfl

theorem ldx_of_readOp : ldx m s = some (((u.setX v).setNZ v).advance m.length) := by
  rw [ldx, h]; rfl

theorem ldy_of_readOp : ldy m s = some (((u.setY v).setNZ v).advance m.length) := by
  rw [ldy, h]; rfl

end

/-! ### Stores -/

/-- The opcode bytes of STA select it, and `exec` runs it with the mode of the form (R183). -/
theorem exec_staForms (s : State) :
    ∀ f ∈ staForms, decodeOpcode f.byte = f.instr ∧ exec f.instr s = complete (sta f.mode s) :=
  forms_dispatch (by decide) fun f hf => by fin_cases hf <;> rfl

/-- The opcode bytes of STX select it, and `exec` runs it with the mode of the form (R184). -/
theorem exec_stxForms (s : State) :
    ∀ f ∈ stxForms, decodeOpcode f.byte = f.instr ∧ exec f.instr s = complete (stx f.mode s) :=
  forms_dispatch (by decide) fun f hf => by fin_cases hf <;> rfl

/-- The opcode bytes of STY select it, and `exec` runs it with the mode of the form (R185). -/
theorem exec_styForms (s : State) :
    ∀ f ∈ styForms, decodeOpcode f.byte = f.instr ∧ exec f.instr s = complete (sty f.mode s) :=
  forms_dispatch (by decide) fun f hf => by fin_cases hf <;> rfl

/-- The opcode bytes of SAX select it, and `exec` runs it with the mode of the form (R347). -/
theorem exec_saxForms (s : State) :
    ∀ f ∈ saxForms, decodeOpcode f.byte = f.instr ∧ exec f.instr s = complete (sax f.mode s) :=
  forms_dispatch (by decide) fun f hf => by fin_cases hf <;> rfl

section
variable {m : AddrMode} {s t : State}

theorem sta_of_writeOp (h : writeOp m s.cpu.a s = some t) : sta m s = some (t.advance m.length) := by
  rw [sta, h]; rfl

theorem stx_of_writeOp (h : writeOp m s.cpu.x s = some t) : stx m s = some (t.advance m.length) := by
  rw [stx, h]; rfl

theorem sty_of_writeOp (h : writeOp m s.cpu.y s = some t) : sty m s = some (t.advance m.length) := by
  rw [sty, h]; rfl

theorem sax_of_writeOp (h : writeOp m (s.cpu.a &&& s.cpu.x) s = some t) : sax m s = some (t.advance m.length) := by
  rw [sax, h]; rfl

end

/-! ### Transfers -/

section
variable {s u : State} (h : amImp s = some u)
include h

theorem tax_of_amImp : tax s = some (((u.setX u.cpu.a).setNZ u.cpu.a).advance 1) := by rw [tax, h]; rfl

theorem tay_of_amImp : tay s = some (((u.setY u.cpu.a).setNZ u.cpu.a).advance 1) := by rw [tay, h]; rfl

theorem txa_of_amImp : txa s = some (((u.setA u.cpu.x).setNZ u.cpu.x).advance 1) := by rw [txa, h]; rfl

theorem tya_of_amImp : tya s = some (((u.setA u.cpu.y).setNZ u.cpu.y).advance 1) := by rw [tya, h]; rfl

theorem tsx_of_amImp : tsx s = some (((u.setX u.cpu.sp).setNZ u.cpu.sp).advance 1) := by rw [tsx, h]; rfl

theorem txs_of_amImp : txs s = some ((u.setSp u.cpu.x).advance 1) := by rw [txs, h]; rfl

end

end Sys2Proof.Machine

open Sys2Proof Sys2Proof.Machine

/-- Settles O21: a load is `ReadOp`, which changes no register, and then one register, N, Z and `PC`. -/
theorem loadsTakeTheOperandByte : Obligations.LoadsTakeTheOperandByte := by
  unfold Obligations.LoadsTakeTheOperandByte
  intro s ha
  refine ⟨?lda, ?ldx, ?ldy⟩
  case lda =>
    refine readForms_of_result (r := fun v => v) ha (exec_ldaForms s) fun m v u hu hc => ?_
    rw [lda_of_readOp hu, ← hc]; rfl
  case ldx =>
    refine readForms_of_result (r := fun v => v) ha (exec_ldxForms s) fun m v u hu hc => ?_
    rw [ldx_of_readOp hu, ← hc]; rfl
  case ldy =>
    refine readForms_of_result (r := fun v => v) ha (exec_ldyForms s) fun m v u hu hc => ?_
    rw [ldy_of_readOp hu, ← hc]; rfl

/-- Settles O22: a store is `WriteOp` of its byte, which changes no register, and then `PC`. -/
theorem storesPutTheRegister : Obligations.StoresPutTheRegister := by
  unfold Obligations.StoresPutTheRegister
  intro s ha
  refine ⟨?sta, ?stx, ?sty, ?sax⟩
  case sta => exact writeForms_of ha (exec_staForms s) fun _ _ => sta_of_writeOp
  case stx => exact writeForms_of ha (exec_stxForms s) fun _ _ => stx_of_writeOp
  case sty => exact writeForms_of ha (exec_styForms s) fun _ _ => sty_of_writeOp
  case sax => exact writeForms_of ha (exec_saxForms s) fun _ _ => sax_of_writeOp

/-- Settles O23: a transfer is `AM_imp`, which changes no register, so the source register is still that of the state
before; TXS writes no flag. -/
theorem transfersCopyTheRegister : Obligations.TransfersCopyTheRegister := by
  unfold Obligations.TransfersCopyTheRegister
  intro s ha
  refine ⟨?tax, ?tay, ?txa, ?tya, ?tsx, ?txs⟩
  case tax =>
    refine implied_of_result ha (decodeOpcode_opcode .tax) rfl fun u hu hc => ?_
    rw [tax_of_amImp hu, ← hc]; rfl
  case tay =>
    refine implied_of_result ha (decodeOpcode_opcode .tay) rfl fun u hu hc => ?_
    rw [tay_of_amImp hu, ← hc]; rfl
  case txa =>
    refine implied_of_result ha (decodeOpcode_opcode .txa) rfl fun u hu hc => ?_
    rw [txa_of_amImp hu, ← hc]; rfl
  case tya =>
    refine implied_of_result ha (decodeOpcode_opcode .tya) rfl fun u hu hc => ?_
    rw [tya_of_amImp hu, ← hc]; rfl
  case tsx =>
    refine implied_of_result ha (decodeOpcode_opcode .tsx) rfl fun u hu hc => ?_
    rw [tsx_of_amImp hu, ← hc]; rfl
  case txs =>
    refine implied_of ha (decodeOpcode_opcode .txs) rfl fun u hu hc => ⟨s.cpu.p, flagsAre_nil s.cpu.p, ?_⟩
    rw [txs_of_amImp hu, ← hc]; rfl
end

section
/-! The statements about the ALU (42_alu). The equations of the adder and the subtracter are proved once, in the
integers of the rules R229 to R232; ADC and SBC put the result of one of them into the registers (`adcForms_adder`,
`sbcForms_subtracter`), and compare and BIT change the flags only (`readForms_of_flags`). -/

namespace Sys2Proof.Machine

open Sys2Proof

/-! ### Carries and sign bits -/

/-- The two ways to write a carry as a number. -/
theorem carryNat_eq_toNat (c : Bool) : carryNat c = c.toNat := by cases c <;> rfl

/-- The sign bit of a byte is its bit 7. -/
theorem msb_eq_bit7 (b : Byte) : b.msb = b.getLsbD 7 := BitVec.msb_eq_getLsbD_last b

/-! ### The adder and the subtracter -/

theorem adder_binary (a m : Byte) (c : Bool) : adder false a m c = addBin a m c := rfl
theorem adder_decimal (a m : Byte) (c : Bool) : adder true a m c = addDec a m c := rfl
theorem subtracter_binary (a m : Byte) (c : Bool) : subtracter false a m c = subBin a m c := rfl
theorem subtracter_decimal (a m : Byte) (c : Bool) : subtracter true a m c = subDec a m c := rfl

/-- The binary sum in integers (R229). -/
theorem addBin_eq (a m : Byte) (c : Bool) : addBin a m c =
    { r := BitVec.ofNat 8 (a.toNat + m.toNat + c.toNat)
      c := decide (255 < a.toNat + m.toNat + c.toNat)
      v := decide (a.toInt + m.toInt + c.toNat < -128 ∨ 127 < a.toInt + m.toInt + c.toNat)
      n := (BitVec.ofNat 8 (a.toNat + m.toNat + c.toNat)).getLsbD 7
      z := decide (BitVec.ofNat 8 (a.toNat + m.toNat + c.toNat) = 0) } := by
  rw [← carryNat_eq_toNat, ← addBin_overflow, ← msb_eq_bit7]
  rfl

/-- The binary difference in integers (R231). -/
theorem subBin_eq (a m : Byte) (c : Bool) : subBin a m c =
    { r := BitVec.ofInt 8 ((a.toNat : Int) - m.toNat - (1 - c.toNat))
      c := decide (m.toNat + 1 ≤ a.toNat + c.toNat)
      v := decide (a.toInt - m.toInt - (1 - c.toNat) < -128 ∨ 127 < a.toInt - m.toInt - (1 - c.toNat))
      n := (BitVec.ofInt 8 ((a.toNat : Int) - m.toNat - (1 - c.toNat))).getLsbD 7
      z := decide (BitVec.ofInt 8 ((a.toNat : Int) - m.toNat - (1 - c.toNat)) = 0) } := by
  have hborrow : m.toNat + 1 ≤ a.toNat + carryNat c ↔ (0 : Int) ≤ a.toNat - m.toNat - (1 - carryNat c) := by omega
  rw [← carryNat_eq_toNat, ← subBin_overflow, ← msb_eq_bit7, decide_eq_decide.mpr hborrow]
  rfl

/-- The decimal sum with the low part `low`, the corrected sum `t` and the result `u` of R230. -/
theorem addDec_eq (a m : Byte) (c : Bool) {low t u : Nat} (hlow : low = a.toNat % 16 + m.toNat % 16 + c.toNat)
    (ht : t = (a.toNat - a.toNat % 16) + (m.toNat - m.toNat % 16) +
      (if 10 ≤ low then (low + 6) % 16 + 16 else low))
    (hu : u = if 0xA0 ≤ t then t + 0x60 else t) : addDec a m c =
    { r := BitVec.ofNat 8 u
      c := decide (0x100 ≤ u)
      v := a.getLsbD 7 == m.getLsbD 7 && t.testBit 7 != a.getLsbD 7
      n := t.testBit 7
      z := decide ((a.toNat + m.toNat + c.toNat) % 256 = 0) } := by
  subst hu ht hlow
  rw [← carryNat_eq_toNat, ← Nat.div_mul_self_eq_mod_sub_self, ← Nat.div_mul_self_eq_mod_sub_self, ← msb_eq_bit7,
    ← msb_eq_bit7]
  rfl

/-- The decimal difference with the low part `low`, the corrected difference `t` and the binary difference `bin` of
R232, from which the flags are. -/
theorem subDec_eq (a m : Byte) (c : Bool) {low t bin : Int}
    (hlow : low = (a.toNat % 16 : Nat) - (m.toNat % 16 : Nat) + c.toNat - 1)
    (ht : t = (a.toNat - a.toNat % 16 : Nat) - (m.toNat - m.toNat % 16 : Nat) +
      (if low < 0 then (low - 6) % 16 - 16 else low))
    (hbin : bin = (a.toNat : Int) - m.toNat - (1 - c.toNat)) : subDec a m c =
    { r := BitVec.ofInt 8 (if t < 0 then t - 0x60 else t)
      c := decide (0 ≤ bin)
      v := a.getLsbD 7 != m.getLsbD 7 && (BitVec.ofInt 8 bin).getLsbD 7 != a.getLsbD 7
      n := (BitVec.ofInt 8 bin).getLsbD 7
      z := decide (BitVec.ofInt 8 bin = 0) } := by
  subst hbin ht hlow
  rw [← carryNat_eq_toNat, ← Nat.div_mul_self_eq_mod_sub_self, ← Nat.div_mul_self_eq_mod_sub_self, ← msb_eq_bit7,
    ← msb_eq_bit7, ← msb_eq_bit7]
  rfl

/-! ### The flags -/

/-- The flags of an arithmetic result in the order of R223 with `N` and `Z` last. -/
theorem flagsAre_arith (t : Arith) (p : Byte) :
    flagsAre p (putArith t p) [(.c, t.c), (.v, t.v), (.n, t.n), (.z, t.z)] := by
  intro g; cases g <;> simp [updated]

/-- The flags of a compare in numbers (R233). -/
theorem flagsAre_compare (r m p : Byte) : flagsAre p (putCompare r m p)
    [(.c, decide (m.toNat ≤ r.toNat)), (.z, decide (r = m)), (.n, (r - m).getLsbD 7)] := by
  have hzero : r - m = 0#8 ↔ r = m := sub_eq_zero
  intro g; cases g <;> simp [updated, hzero, BitVec.le_def, msb_eq_bit7]

/-- The flags of BIT in the order of R228. -/
theorem flagsAre_bit (a m p : Byte) : flagsAre p (putBit a m p)
    [(.z, decide (a &&& m = 0)), (.n, m.getLsbD 7), (.v, m.getLsbD 6)] := by
  intro g; cases g <;> simp [updated]

/-! ### The shapes of instructions -/

/-- Which flags change does not depend on the order they are listed in. -/
theorem State.readForms.flags_congr {s : State} {forms : List Form} {regs : Byte → Cpu}
    {flags flags' : Byte → List (Flag × Bool)} (h : s.readForms forms regs flags)
    (hf : ∀ v g old, updated (flags v) g old = updated (flags' v) g old) : s.readForms forms regs flags' := by
  intro f hm
  obtain ⟨hd, v, u, p, hr, hp, he⟩ := h f hm
  exact ⟨hd, v, u, p, hr, fun g => (hp g).trans (hf v g _), he⟩

/-- What to show for an instruction that reads its operand and puts an arithmetic result `t v` into `A` and the
flags. -/
theorem readForms_of_arith {s : State} {forms : List Form} {t : Byte → Arith} {op : AddrMode → State → Option State}
    (ha : s.answered)
    (hf : ∀ f ∈ forms, decodeOpcode f.byte = f.instr ∧ exec f.instr s = complete (op f.mode s))
    (hop : ∀ m v u, readOp m s = some (v, u) → u.cpu = s.cpu →
      op m s = some ((u.setArith (t v)).advance m.length)) :
    s.readForms forms (fun v => { s.cpu with a := (t v).r })
      (fun v => [(.c, (t v).c), (.v, (t v).v), (.n, (t v).n), (.z, (t v).z)]) :=
  readForms_of ha hf fun m v u hu hc => ⟨_, flagsAre_arith (t v) s.cpu.p, by rw [hop m v u hu hc, ← hc]; rfl⟩

/-- What to show for an instruction that reads its operand and changes the flags only. -/
theorem readForms_of_flags {s : State} {forms : List Form} {flags : Byte → List (Flag × Bool)}
    {put : Byte → Byte → Byte} {op : AddrMode → State → Option State} (ha : s.answered)
    (hf : ∀ f ∈ forms, decodeOpcode f.byte = f.instr ∧ exec f.instr s = complete (op f.mode s))
    (hp : ∀ v p, flagsAre p (put v p) (flags v))
    (hop : ∀ m v u, readOp m s = some (v, u) → u.cpu = s.cpu →
      op m s = some ((u.setP (put v s.cpu.p)).advance m.length)) :
    s.readForms forms (fun _ => s.cpu) flags :=
  readForms_of ha hf fun m v u hu hc => ⟨_, hp v s.cpu.p, by rw [hop m v u hu hc, ← hc]; rfl⟩

/-! ### The dispatch -/

/-- The opcode bytes of ORA select it, and `exec` runs it with the mode of the form (R220). -/
theorem exec_oraForms (s : State) :
    ∀ f ∈ oraForms, decodeOpcode f.byte = f.instr ∧ exec f.instr s = complete (ora f.mode s) :=
  forms_dispatch (by decide) fun f hf => by fin_cases hf <;> rfl

/-- The opcode bytes of AND select it, and `exec` runs it with the mode of the form (R221). -/
theorem exec_andForms (s : State) :
    ∀ f ∈ andForms, decodeOpcode f.byte = f.instr ∧ exec f.instr s = complete (andA f.mode s) :=
  forms_dispatch (by decide) fun f hf => by fin_cases hf <;> rfl

/-- The opcode bytes of EOR select it, and `exec` runs it with the mode of the form (R222). -/
theorem exec_eorForms (s : State) :
    ∀ f ∈ eorForms, decodeOpcode f.byte = f.instr ∧ exec f.instr s = complete (eor f.mode s) :=
  forms_dispatch (by decide) fun f hf => by fin_cases hf <;> rfl

/-- The opcode bytes of ADC select it, and `exec` runs it with the mode of the form (R223). -/
theorem exec_adcForms (s : State) :
    ∀ f ∈ adcForms, decodeOpcode f.byte = f.instr ∧ exec f.instr s = complete (adc f.mode s) :=
  forms_dispatch (by decide) fun f hf => by fin_cases hf <;> rfl

/-- The opcode bytes of SBC, 0xEB among them, select it, and `exec` runs it with the mode of the form (R224, R354). -/
theorem exec_sbcForms (s : State) :
    ∀ f ∈ sbcForms, decodeOpcode f.byte = f.instr ∧ exec f.instr s = complete (sbc f.mode s) :=
  forms_dispatch (by decide) fun f hf => by fin_cases hf <;> rfl

/-- The opcode bytes of CMP select it, and `exec` runs it with the mode of the form (R225). -/
theorem exec_cmpForms (s : State) :
    ∀ f ∈ cmpForms, decodeOpcode f.byte = f.instr ∧ exec f.instr s = complete (cmpA f.mode s) :=
  forms_dispatch (by decide) fun f hf => by fin_cases hf <;> rfl

/-- The opcode bytes of CPX select it, and `exec` runs it with the mode of the form (R226). -/
theorem exec_cpxForms (s : State) :
    ∀ f ∈ cpxForms, decodeOpcode f.byte = f.instr ∧ exec f.instr s = complete (cpx f.mode s) :=
  forms_dispatch (by decide) fun f hf => by fin_cases hf <;> rfl

/-- The opcode bytes of CPY select it, and `exec` runs it with the mode of the form (R227). -/
theorem exec_cpyForms (s : State) :
    ∀ f ∈ cpyForms, decodeOpcode f.byte = f.instr ∧ exec f.instr s = complete (cpy f.mode s) :=
  forms_dispatch (by decide) fun f hf => by fin_cases hf <;> rfl

/-- The opcode bytes of BIT select it, and `exec` runs it with the mode of the form (R228). -/
theorem exec_bitForms (s : State) :
    ∀ f ∈ bitForms, decodeOpcode f.byte = f.instr ∧ exec f.instr s = complete (bitTest f.mode s) :=
  forms_dispatch (by decide) fun f hf => by fin_cases hf <;> rfl

/-! ### What each meaning answers after its reads -/

section
variable {m : AddrMode} {v : Byte} {s u : State} (h : readOp m s = some (v, u)) (hc : u.cpu = s.cpu)
include h hc

theorem ora_of_readOp :
    ora m s = some (((u.setA (s.cpu.a ||| v)).setNZ (s.cpu.a ||| v)).advance m.length) := by
  rw [ora, h, ← hc]; rfl

theorem andA_of_readOp :
    andA m s = some (((u.setA (s.cpu.a &&& v)).setNZ (s.cpu.a &&& v)).advance m.length) := by
  rw [andA, h, ← hc]; rfl

theorem eor_of_readOp :
    eor m s = some (((u.setA (s.cpu.a ^^^ v)).setNZ (s.cpu.a ^^^ v)).advance m.length) := by
  rw [eor, h, ← hc]; rfl

theorem adc_of_readOp :
    adc m s = some ((u.setArith (adder (s.flag .d) s.cpu.a v (s.flag .c))).advance m.length) := by
  rw [adc, h, State.flag, State.flag, ← hc]; rfl

theorem sbc_of_readOp :
    sbc m s = some ((u.setArith (subtracter (s.flag .d) s.cpu.a v (s.flag .c))).advance m.length) := by
  rw [sbc, h, State.flag, State.flag, ← hc]; rfl

theorem cmpA_of_readOp : cmpA m s = some ((u.setP (putCompare s.cpu.a v s.cpu.p)).advance m.length) := by
  rw [cmpA, h, ← hc]; rfl

theorem cpx_of_readOp : cpx m s = some ((u.setP (putCompare s.cpu.x v s.cpu.p)).advance m.length) := by
  rw [cpx, h, ← hc]; rfl

theorem cpy_of_readOp : cpy m s = some ((u.setP (putCompare s.cpu.y v s.cpu.p)).advance m.length) := by
  rw [cpy, h, ← hc]; rfl

theorem bitTest_of_readOp : bitTest m s = some ((u.setP (putBit s.cpu.a v s.cpu.p)).advance m.length) := by
  rw [bitTest, h, ← hc]; rfl

end

/-- ADC puts the adder's result into `A` and the flags, in the mode `D` selects (R223). -/
theorem adcForms_adder {s : State} (ha : s.answered) :
    s.readForms adcForms (fun v => { s.cpu with a := (adder (s.flag .d) s.cpu.a v (s.flag .c)).r })
      (fun v =>
        [(.c, (adder (s.flag .d) s.cpu.a v (s.flag .c)).c), (.v, (adder (s.flag .d) s.cpu.a v (s.flag .c)).v),
         (.n, (adder (s.flag .d) s.cpu.a v (s.flag .c)).n), (.z, (adder (s.flag .d) s.cpu.a v (s.flag .c)).z)]) :=
  readForms_of_arith ha (exec_adcForms s) fun _ _ _ => adc_of_readOp

/-- SBC puts the subtracter's result into `A` and the flags, in the mode `D` selects (R224). -/
theorem sbcForms_subtracter {s : State} (ha : s.answered) :
    s.readForms sbcForms (fun v => { s.cpu with a := (subtracter (s.flag .d) s.cpu.a v (s.flag .c)).r })
      (fun v =>
        [(.c, (subtracter (s.flag .d) s.cpu.a v (s.flag .c)).c), (.v, (subtracter (s.flag .d) s.cpu.a v (s.flag .c)).v),
         (.n, (subtracter (s.flag .d) s.cpu.a v (s.flag .c)).n),
         (.z, (subtracter (s.flag .d) s.cpu.a v (s.flag .c)).z)]) :=
  readForms_of_arith ha (exec_sbcForms s) fun _ _ _ => sbc_of_readOp

/-! ### Decimal numbers -/

/-- The number that the two nibbles of a byte write in decimal (R230). -/
def decimalValue (b : Byte) : Nat := b.toNat / 16 * 10 + b.toNat % 16

/-- A byte each of whose nibbles is a decimal digit. -/
def Bcd (b : Byte) : Prop := b.toNat % 16 ≤ 9 ∧ b.toNat / 16 ≤ 9

/-- The byte holds the last two decimal digits of `n`. -/
def HoldsDigits (b : Byte) (n : Nat) : Prop := b.toNat = n / 10 % 10 * 16 + n % 10

theorem HoldsDigits.bcd {b : Byte} {n : Nat} (h : HoldsDigits b n) : Bcd b := by
  unfold HoldsDigits at h
  exact ⟨by omega, by omega⟩

theorem HoldsDigits.decimalValue {b : Byte} {n : Nat} (h : HoldsDigits b n) : decimalValue b = n % 100 := by
  unfold HoldsDigits at h
  unfold Machine.decimalValue
  omega

/-- The digits of a number written as tens and units. -/
theorem holdsDigits_of {b : Byte} {n tens units : Nat} (hn : n = 10 * tens + units) (hu : units ≤ 9)
    (hb : b.toNat = tens % 10 * 16 + units) : HoldsDigits b n := by
  unfold HoldsDigits
  omega

/-- Two digits and a carry make at most 19, so that taking the tens modulo 10 is one conditional subtraction. -/
theorem mod_ten_of_le {tens : Nat} (h : tens ≤ 19) : tens % 10 = if 10 ≤ tens then tens - 10 else tens := by
  split <;> omega

section
variable {a m : Byte} (ha : Bcd a) (hm : Bcd m) (c : Bool)
include ha hm

/-- The low part of the decimal sum is the sum of the low digits, with its ten as a carry of 16 (R230). -/
theorem addDecLow_digits : ∃ carry units : Nat, carry ≤ 1 ∧ units ≤ 9 ∧
    a.toNat % 16 + m.toNat % 16 + c.toNat = 10 * carry + units ∧ addDecLow a m c = 16 * carry + units := by
  obtain ⟨hal, -⟩ := ha
  obtain ⟨hml, -⟩ := hm
  have hc := c.toNat_le
  simp only [addDecLow, carryNat_eq_toNat]
  split
  · exact ⟨1, a.toNat % 16 + m.toNat % 16 + c.toNat - 10, by omega⟩
  · exact ⟨0, a.toNat % 16 + m.toNat % 16 + c.toNat, by omega⟩

/-- On decimal digits the decimal adder adds the numbers they write (R230). -/
theorem addDec_holdsDigits : HoldsDigits (addDec a m c).r (decimalValue a + decimalValue m + c.toNat) ∧
    (addDec a m c).c = decide (100 ≤ decimalValue a + decimalValue m + c.toNat) := by
  obtain ⟨carry, units, hcarry, hunits, hlow, hcorr⟩ := addDecLow_digits ha hm c
  obtain ⟨-, hah⟩ := ha
  obtain ⟨-, hmh⟩ := hm
  have hsum : decimalValue a + decimalValue m + c.toNat = 10 * (a.toNat / 16 + m.toNat / 16 + carry) + units := by
    unfold decimalValue; omega
  refine ⟨holdsDigits_of hsum hunits ?_, ?_⟩
  · simp only [addDec, hcorr, BitVec.toNat_ofNat]
    rw [mod_ten_of_le (by omega)]
    split <;> split <;> omega
  · simp only [addDec, hcorr, hsum, decide_eq_decide]
    split <;> omega

/-- The low part of the decimal difference is that of the low digits: `carry` is 0 when it borrows, a ten of the
digits and 16 of the byte (R232). -/
theorem subDecLow_digits : ∃ carry units : Nat, carry ≤ 1 ∧ units ≤ 9 ∧
    a.toNat % 16 + c.toNat + 9 = m.toNat % 16 + (10 * carry + units) ∧
    subDecLow a m c = 16 * ((carry : Int) - 1) + units := by
  obtain ⟨hal, -⟩ := ha
  obtain ⟨hml, -⟩ := hm
  have hc := c.toNat_le
  simp only [subDecLow, carryNat_eq_toNat]
  split
  · exact ⟨0, a.toNat % 16 + c.toNat + 9 - m.toNat % 16, by omega⟩
  · exact ⟨1, a.toNat % 16 + c.toNat - 1 - m.toNat % 16, by omega⟩

/-- On decimal digits the decimal subtracter subtracts the numbers they write (R232). -/
theorem subDec_holdsDigits :
    HoldsDigits (subDec a m c).r (decimalValue a + 100 + c.toNat - decimalValue m - 1) ∧
      (subDec a m c).c = decide (decimalValue m + 1 ≤ decimalValue a + c.toNat) := by
  obtain ⟨carry, units, hcarry, hunits, hlow, hcorr⟩ := subDecLow_digits ha hm c
  obtain ⟨hal, hah⟩ := ha
  obtain ⟨hml, hmh⟩ := hm
  have hdif : decimalValue a + 100 + c.toNat - decimalValue m - 1 =
      10 * (a.toNat / 16 + 9 + carry - m.toNat / 16) + units := by
    unfold decimalValue; omega
  refine ⟨holdsDigits_of hdif hunits ?_, ?_⟩
  · simp only [subDec, hcorr, BitVec.toNat_ofInt]
    rw [mod_ten_of_le (by omega)]
    split <;> split <;> omega
  · simp only [subDec, subBin_eq, decimalValue]
    exact decide_eq_decide.mpr (by omega)

end

end Sys2Proof.Machine

open Sys2Proof Sys2Proof.Machine

/-- Settles O24: each of the three is `ReadOp`, which changes no register, and then its bitwise result in A, N and Z. -/
theorem logicCombinesWithTheAccumulator : Obligations.LogicCombinesWithTheAccumulator := by
  unfold Obligations.LogicCombinesWithTheAccumulator
  intro s ha
  refine ⟨?ora, ?and, ?eor⟩
  case ora =>
    refine readForms_of_result (r := fun v => s.cpu.a ||| v) ha (exec_oraForms s) fun m v u hu hc => ?_
    rw [ora_of_readOp hu hc, ← hc]; rfl
  case and =>
    refine readForms_of_result (r := fun v => s.cpu.a &&& v) ha (exec_andForms s) fun m v u hu hc => ?_
    rw [andA_of_readOp hu hc, ← hc]; rfl
  case eor =>
    refine readForms_of_result (r := fun v => s.cpu.a ^^^ v) ha (exec_eorForms s) fun m v u hu hc => ?_
    rw [eor_of_readOp hu hc, ← hc]; rfl

/-- Settles O25: with `D` clear the adder is the binary one, whose result in integers is `addBin_eq`. -/
theorem binaryAddWithCarry : Obligations.BinaryAddWithCarry := by
  unfold Obligations.BinaryAddWithCarry
  intro s ha hd
  have h := adcForms_adder ha
  simp only [hd, adder_binary, addBin_eq] at h
  exact h

/-- Settles O26: with `D` clear the subtracter is the binary one, whose result in integers is `subBin_eq`. -/
theorem binarySubtractWithBorrow : Obligations.BinarySubtractWithBorrow := by
  unfold Obligations.BinarySubtractWithBorrow
  intro s ha hd
  have h := sbcForms_subtracter ha
  simp only [hd, subtracter_binary, subBin_eq] at h
  exact h

/-- Settles O27: with `D` set the adder and the subtracter are the decimal ones, whose results are `addDec_eq` and
`subDec_eq`. -/
theorem decimalArithmeticAndItsFlags : Obligations.DecimalArithmeticAndItsFlags := by
  unfold Obligations.DecimalArithmeticAndItsFlags
  intro s ha hd
  refine ⟨?adc, ?sbc⟩
  case adc =>
    have h := adcForms_adder ha
    simp only [hd, adder_decimal, fun v => addDec_eq s.cpu.a v (s.flag .c) rfl rfl rfl] at h
    exact h.flags_congr fun v g old => by cases g <;> rfl
  case sbc =>
    have h := sbcForms_subtracter ha
    simp only [hd, subtracter_decimal, fun v => subDec_eq s.cpu.a v (s.flag .c) rfl rfl rfl] at h
    exact h

/-- Settles O28: both results hold the last two digits of the sum and of the difference. -/
theorem decimalResultsAreDecimal : Obligations.DecimalResultsAreDecimal := by
  unfold Obligations.DecimalResultsAreDecimal
  intro a m c hal hah hml hmh num sum dif
  obtain ⟨hsum, hcarry⟩ := addDec_holdsDigits ⟨hal, hah⟩ ⟨hml, hmh⟩ c
  obtain ⟨hdif, hborrow⟩ := subDec_holdsDigits ⟨hal, hah⟩ ⟨hml, hmh⟩ c
  obtain ⟨hsumLow, hsumHigh⟩ := hsum.bcd
  obtain ⟨hdifLow, hdifHigh⟩ := hdif.bcd
  exact ⟨hsumLow, hsumHigh, hdifLow, hdifHigh, hsum.decimalValue, hcarry, hdif.decimalValue, hborrow⟩

namespace Sys2Proof.Machine

/-! ### ADC and SBC immediate on a quiet memory -/

/-- The registers play no part in what a read returns. -/
theorem view_withCpu (s : State) (c : Cpu) (a : Addr) : ({ s with cpu := c } : State).view a = s.view a := rfl

theorem flag_withCpu (s : State) (c : Cpu) (f : Flag) : ({ s with cpu := c } : State).flag f = flagOf c.p f := rfl

/-- ADC immediate with `D` clear reads the byte after the opcode and changes neither the memory nor `D`. -/
theorem exec_adcImm_quiet {s : State} (hq : s.quiet) (hd : s.flag .d = false) :
    ∃ t, exec .adcImm s = .next t ∧ (∀ a, t.view a = s.view a) ∧ t.quiet ∧ t.flag .d = false ∧
      t.cpu.a = BitVec.ofNat 8 (s.cpu.a.toNat + (s.view (s.cpu.pc + 1)).toNat + (s.flag .c).toNat) := by
  obtain ⟨-, v, u, p, ⟨-, hu, hv⟩, hp, he⟩ := binaryAddWithCarry s hq.answered hd ⟨.adcImm, 0x69, .imm⟩ (by decide)
  obtain ⟨rfl, -⟩ := hv hq
  exact ⟨_, he, fun a => hu.view_of_quiet hq a, hu.quiet hq, (hp .d).trans hd, rfl⟩

/-- SBC immediate with `D` clear subtracts the byte after the opcode. -/
theorem exec_sbcImm_quiet {s : State} (hq : s.quiet) (hd : s.flag .d = false) :
    ∃ t, exec .sbcImm s = .next t ∧ t.cpu.a = BitVec.ofInt 8
      ((s.cpu.a.toNat : Int) - (s.view (s.cpu.pc + 1)).toNat - (1 - (s.flag .c).toNat)) := by
  obtain ⟨-, v, u, p, ⟨-, hu, hv⟩, hp, he⟩ :=
    binarySubtractWithBorrow s hq.answered hd ⟨.sbcImm, 0xE9, .imm⟩ (by decide)
  obtain ⟨rfl, -⟩ := hv hq
  exact ⟨_, he, rfl⟩

/-- Modulo 256 a sum without carry less one addend, without borrow, is the other (R234). -/
theorem sum_sub_addend (a m : Byte) : BitVec.ofInt 8
    (((BitVec.ofNat 8 (a.toNat + m.toNat + false.toNat)).toNat : Int) - m.toNat - (1 - true.toNat)) = a := by
  apply BitVec.eq_of_toNat_eq
  simp only [BitVec.toNat_ofInt, BitVec.toNat_ofNat, Bool.toNat_false, Bool.toNat_true]
  omega

end Sys2Proof.Machine

/-- Settles O29: on a quiet memory SBC reads the byte that ADC read, and what is left of the sum when that byte is
subtracted is A, as the carry clear adds nothing and the carry set borrows nothing. -/
theorem subtractionUndoesAddition : Obligations.SubtractionUndoesAddition := by
  unfold Obligations.SubtractionUndoesAddition
  intro s hq hd hc
  obtain ⟨t, he, hview, htq, htd, hta⟩ := exec_adcImm_quiet hq hd
  have hd' : flagOf (putFlag .c true t.cpu.p) .d = false := (flagOf_putFlag .c .d true t.cpu.p).trans htd
  obtain ⟨w, hw, hwa⟩ := exec_sbcImm_quiet
    (s := { t with cpu := { t.cpu with p := putFlag .c true t.cpu.p, pc := s.cpu.pc } }) htq hd'
  refine ⟨t, w, he, hw, ?_⟩
  simp only [view_withCpu, flag_withCpu, flagOf_putFlag, if_true, hview, hta, hc] at hwa
  exact hwa.trans (sum_sub_addend _ _)

/-- Settles O30: a compare changes the flags only, as `flagsAre_compare` says. -/
theorem comparesSetTheFlags : Obligations.ComparesSetTheFlags := by
  unfold Obligations.ComparesSetTheFlags
  intro s ha
  refine ⟨?cmp, ?cpx, ?cpy⟩
  case cmp => exact readForms_of_flags ha (exec_cmpForms s) (flagsAre_compare s.cpu.a) fun _ _ _ => cmpA_of_readOp
  case cpx => exact readForms_of_flags ha (exec_cpxForms s) (flagsAre_compare s.cpu.x) fun _ _ _ => cpx_of_readOp
  case cpy => exact readForms_of_flags ha (exec_cpyForms s) (flagsAre_compare s.cpu.y) fun _ _ _ => cpy_of_readOp

/-- Settles O31: BIT changes the flags only, as `flagsAre_bit` says. -/
theorem bitTestTakesFlagsFromMemory : Obligations.BitTestTakesFlagsFromMemory := by
  unfold Obligations.BitTestTakesFlagsFromMemory
  intro s ha
  exact readForms_of_flags ha (exec_bitForms s) (flagsAre_bit s.cpu.a) fun _ _ _ => bitTest_of_readOp
end

section
/-! The statements about shifts, increments and decrements (43_rmw_incdec_shift). `ByteOp.gives` says once what each
byte operation of R260 computes; `implied_of_shiftAcc` and `modifyForms_of_modifyMem` carry that to the accumulator and
to memory, so that a shift is stated and proved once for both. -/

namespace Sys2Proof.Machine

open Sys2Proof

/-! ### The byte operations -/

/-- At the flags byte `p` the operation turns a byte `m` into `new m` and changes the flags `flags m` only. -/
def ByteOp.gives (f : ByteOp) (p : Byte) (new : Byte → Byte) (flags : Byte → List (Flag × Bool)) : Prop :=
  ∀ m, (f m p).1 = new m ∧ flagsAre p (f m p).2 (flags m)

/-- The carry as ROL takes it in, at bit 0 (R252). -/
theorem carryIn_bit0 (c : Bool) : (if c then 0x01 else 0x00 : Byte) = BitVec.ofNat 8 c.toNat := by cases c <;> rfl

/-- The carry as ROR takes it in, at bit 7 (R253). -/
theorem carryIn_bit7 (c : Bool) : (if c then 0x80 else 0x00 : Byte) = BitVec.ofNat 8 (c.toNat * 128) := by
  cases c <;> rfl

theorem aslOp_gives (p : Byte) :
    ByteOp.gives aslOp p (fun m => m <<< 1) (fun m => (.c, m.getLsbD 7) :: flagsNZ (m <<< 1)) :=
  fun _ => ⟨rfl, flagsAre_shift' _ _ p⟩

theorem lsrOp_gives (p : Byte) :
    ByteOp.gives lsrOp p (fun m => m >>> 1) (fun m => (.c, m.getLsbD 0) :: flagsNZ (m >>> 1)) :=
  fun _ => ⟨rfl, flagsAre_shift' _ _ p⟩

theorem rolOp_gives (p : Byte) :
    ByteOp.gives rolOp p (fun m => m <<< 1 ||| BitVec.ofNat 8 (flagOf p .c).toNat)
      (fun m => (.c, m.getLsbD 7) :: flagsNZ (m <<< 1 ||| BitVec.ofNat 8 (flagOf p .c).toNat)) := by
  intro m
  rw [← carryIn_bit0]
  exact ⟨rfl, flagsAre_shift' _ _ p⟩

theorem rorOp_gives (p : Byte) :
    ByteOp.gives rorOp p (fun m => m >>> 1 ||| BitVec.ofNat 8 ((flagOf p .c).toNat * 128))
      (fun m => (.c, m.getLsbD 0) :: flagsNZ (m >>> 1 ||| BitVec.ofNat 8 ((flagOf p .c).toNat * 128))) := by
  intro m
  rw [← carryIn_bit7]
  exact ⟨rfl, flagsAre_shift' _ _ p⟩

theorem incOp_gives (p : Byte) : ByteOp.gives incOp p (fun m => m + 1) (fun m => flagsNZ (m + 1)) :=
  fun _ => ⟨rfl, flagsAre_putNZ' _ p⟩

theorem decOp_gives (p : Byte) : ByteOp.gives decOp p (fun m => m - 1) (fun m => flagsNZ (m - 1)) :=
  fun _ => ⟨rfl, flagsAre_putNZ' _ p⟩

/-! ### What each meaning answers after its accesses -/

theorem shiftAcc_of_amImp {f : ByteOp} {s u : State} (h : amImp s = some u) :
    shiftAcc f s = some (((u.setA (f u.cpu.a u.cpu.p).1).setP (f u.cpu.a u.cpu.p).2).advance 1) := by
  rw [shiftAcc, h]; rfl

theorem modifyMem_of_rmwOp {m : AddrMode} {f : ByteOp} {v : Byte} {s t : State} (h : rmwOp m f s = some (v, t)) :
    modifyMem m f s = some (t.advance m.length) := by
  rw [modifyMem, h]; rfl

section
variable {s u : State} (h : amImp s = some u)
include h

theorem inx_of_amImp : inx s = some (((u.setX (u.cpu.x + 1)).setNZ (u.cpu.x + 1)).advance 1) := by rw [inx, h]; rfl

theorem iny_of_amImp : iny s = some (((u.setY (u.cpu.y + 1)).setNZ (u.cpu.y + 1)).advance 1) := by rw [iny, h]; rfl

theorem dex_of_amImp : dex s = some (((u.setX (u.cpu.x - 1)).setNZ (u.cpu.x - 1)).advance 1) := by rw [dex, h]; rfl

theorem dey_of_amImp : dey s = some (((u.setY (u.cpu.y - 1)).setNZ (u.cpu.y - 1)).advance 1) := by rw [dey, h]; rfl

end

/-! ### The shapes of instructions -/

/-- What to show for an instruction that applies a byte operation to the accumulator. -/
theorem implied_of_shiftAcc {s : State} {i : Instr} {byte : Byte} {f : ByteOp} {new : Byte → Byte}
    {flags : Byte → List (Flag × Bool)} (ha : s.answered) (hd : decodeOpcode byte = i)
    (hf : exec i s = complete (shiftAcc f s)) (hg : f.gives s.cpu.p new flags) :
    s.implied i byte { s.cpu with a := new s.cpu.a } (flags s.cpu.a) := by
  obtain ⟨hnew, hflags⟩ := hg s.cpu.a
  refine implied_of ha hd hf fun u hu hc => ⟨_, hflags, ?_⟩
  rw [shiftAcc_of_amImp hu, hc, hnew, ← hc]; rfl

/-- What to show for an instruction that applies a byte operation to memory and changes the flags only. -/
theorem modifyForms_of_modifyMem {s : State} {forms : List Form} {f : ByteOp} {new : Byte → Byte}
    {flags : Byte → List (Flag × Bool)} (ha : s.answered)
    (hf : ∀ g ∈ forms, decodeOpcode g.byte = g.instr ∧ exec g.instr s = complete (modifyMem g.mode f s))
    (hg : f.gives s.cpu.p new flags) : s.modifyForms forms new (fun _ => s.cpu) flags := by
  have hnew : (fun old => (f old s.cpu.p).1) = new := funext fun old => (hg old).1
  rw [← hnew]
  refine modifyForms_of (op := fun m => modifyMem m f) ha hf fun m old t hc ht => ⟨_, (hg old).2, ?_⟩
  rw [modifyMem_of_rmwOp ht, ← hc]; rfl

/-! ### The dispatch -/

/-- The opcode bytes of ASL of memory select it, and `exec` runs it with the mode of the form (R250). -/
theorem exec_aslForms (s : State) :
    ∀ f ∈ aslForms, decodeOpcode f.byte = f.instr ∧ exec f.instr s = complete (modifyMem f.mode aslOp s) :=
  forms_dispatch (op := fun m => modifyMem m aslOp) (by decide) fun f hf => by fin_cases hf <;> rfl

/-- The opcode bytes of LSR of memory select it, and `exec` runs it with the mode of the form (R251). -/
theorem exec_lsrForms (s : State) :
    ∀ f ∈ lsrForms, decodeOpcode f.byte = f.instr ∧ exec f.instr s = complete (modifyMem f.mode lsrOp s) :=
  forms_dispatch (op := fun m => modifyMem m lsrOp) (by decide) fun f hf => by fin_cases hf <;> rfl

/-- The opcode bytes of ROL of memory select it, and `exec` runs it with the mode of the form (R252). -/
theorem exec_rolForms (s : State) :
    ∀ f ∈ rolForms, decodeOpcode f.byte = f.instr ∧ exec f.instr s = complete (modifyMem f.mode rolOp s) :=
  forms_dispatch (op := fun m => modifyMem m rolOp) (by decide) fun f hf => by fin_cases hf <;> rfl

/-- The opcode bytes of ROR of memory select it, and `exec` runs it with the mode of the form (R253). -/
theorem exec_rorForms (s : State) :
    ∀ f ∈ rorForms, decodeOpcode f.byte = f.instr ∧ exec f.instr s = complete (modifyMem f.mode rorOp s) :=
  forms_dispatch (op := fun m => modifyMem m rorOp) (by decide) fun f hf => by fin_cases hf <;> rfl

/-- The opcode bytes of INC select it, and `exec` runs it with the mode of the form (R254). -/
theorem exec_incForms (s : State) :
    ∀ f ∈ incForms, decodeOpcode f.byte = f.instr ∧ exec f.instr s = complete (modifyMem f.mode incOp s) :=
  forms_dispatch (op := fun m => modifyMem m incOp) (by decide) fun f hf => by fin_cases hf <;> rfl

/-- The opcode bytes of DEC select it, and `exec` runs it with the mode of the form (R255). -/
theorem exec_decForms (s : State) :
    ∀ f ∈ decForms, decodeOpcode f.byte = f.instr ∧ exec f.instr s = complete (modifyMem f.mode decOp s) :=
  forms_dispatch (op := fun m => modifyMem m decOp) (by decide) fun f hf => by fin_cases hf <;> rfl

end Sys2Proof.Machine

open Sys2Proof Sys2Proof.Machine

/-- Settles O32: an accumulator form is `AM_imp`, which changes no register, and then its byte operation on `A` and the
flags. -/
theorem accumulatorShifts : Obligations.AccumulatorShifts := by
  unfold Obligations.AccumulatorShifts
  intro s ha
  refine ⟨?asl, ?lsr, ?rol, ?ror⟩
  case asl => exact implied_of_shiftAcc ha (decodeOpcode_opcode .aslAcc) rfl (aslOp_gives s.cpu.p)
  case lsr => exact implied_of_shiftAcc ha (decodeOpcode_opcode .lsrAcc) rfl (lsrOp_gives s.cpu.p)
  case rol => exact implied_of_shiftAcc ha (decodeOpcode_opcode .rolAcc) rfl (rolOp_gives s.cpu.p)
  case ror => exact implied_of_shiftAcc ha (decodeOpcode_opcode .rorAcc) rfl (rorOp_gives s.cpu.p)

/-- Settles O33: a memory form is `RmwOp` of its byte operation, which stores the old byte and then the new one, and
then `PC`. -/
theorem memoryModifiersWriteTwice : Obligations.MemoryModifiersWriteTwice := by
  unfold Obligations.MemoryModifiersWriteTwice
  intro s ha
  refine ⟨?asl, ?lsr, ?rol, ?ror, ?inc, ?dec⟩
  case asl => exact modifyForms_of_modifyMem ha (exec_aslForms s) (aslOp_gives s.cpu.p)
  case lsr => exact modifyForms_of_modifyMem ha (exec_lsrForms s) (lsrOp_gives s.cpu.p)
  case rol => exact modifyForms_of_modifyMem ha (exec_rolForms s) (rolOp_gives s.cpu.p)
  case ror => exact modifyForms_of_modifyMem ha (exec_rorForms s) (rorOp_gives s.cpu.p)
  case inc => exact modifyForms_of_modifyMem ha (exec_incForms s) (incOp_gives s.cpu.p)
  case dec => exact modifyForms_of_modifyMem ha (exec_decForms s) (decOp_gives s.cpu.p)

/-- Settles O34: each of the four is `AM_imp`, which changes no register, and then its register stepped, `N` and `Z`. -/
theorem registerStepsWrapAround : Obligations.RegisterStepsWrapAround := by
  unfold Obligations.RegisterStepsWrapAround
  intro s ha
  refine ⟨?inx, ?iny, ?dex, ?dey⟩
  case inx =>
    refine implied_of_result ha (decodeOpcode_opcode .inx) rfl fun u hu hc => ?_
    rw [inx_of_amImp hu, ← hc]; rfl
  case iny =>
    refine implied_of_result ha (decodeOpcode_opcode .iny) rfl fun u hu hc => ?_
    rw [iny_of_amImp hu, ← hc]; rfl
  case dex =>
    refine implied_of_result ha (decodeOpcode_opcode .dex) rfl fun u hu hc => ?_
    rw [dex_of_amImp hu, ← hc]; rfl
  case dey =>
    refine implied_of_result ha (decodeOpcode_opcode .dey) rfl fun u hu hc => ?_
    rw [dey_of_amImp hu, ← hc]; rfl
end

section
/-! The statements about control transfer (44_control). A read or a store changes no register, so each meaning is said
once by the reads and stores it makes, one lemma for each, and the registers it leaves are those of the state before but
for `PC` and `SP`. The two round trips then need one fact more: the bytes stored are the bytes pulled
(`State.stores.view_stored`). -/

namespace Sys2Proof.Machine

open Sys2Proof

/-! ### The registers after reads -/

theorem stackAddr_of_onlyRead {s u : State} (h : s.onlyRead u) : stackAddr u = s.stack s.cpu.sp := by
  rw [stackAddr_eq, State.stack_of_cfg h.cfg, h.cpu]

theorem setPc_of_onlyRead {s u : State} (h : s.onlyRead u) (a : Addr) :
    u.setPc a = { u with cpu := { s.cpu with pc := a } } := by
  rw [← h.cpu]; rfl

theorem State.reads.answered {s u : State} {l : List (Addr × Byte)} (h : s.reads l u) (ha : s.answered) : u.answered :=
  h.onlyRead.answered ha

/-- The dummy read of the next byte and then that of the stack top, with which the instructions that pull begin. -/
theorem amImp_stackTop_reads {s : State} (ha : s.answered) :
    ∃ d x u u', amImp s = some u ∧ memRead (stackAddr u) u = some (x, u') ∧
      s.reads [(s.cpu.pc + 1, d), (s.stack s.cpu.sp, x)] u' := by
  obtain ⟨d, u, hu, r⟩ := amImp_reads ha
  obtain ⟨x, u', hu', r'⟩ := r.more ha (stackAddr u)
  rw [stackAddr_of_onlyRead r.onlyRead] at r'
  exact ⟨d, x, u, u', hu, hu', r'⟩

/-! ### Branches -/

/-- Whether a branch that tests the flag `f` for the value `want` is taken (R280). -/
def State.takes (s : State) (f : Flag) (want : Bool) : Bool := if want then s.flag f else !s.flag f

theorem State.takes_iff (s : State) (f : Flag) (want : Bool) : s.takes f want = true ↔ s.flag f = want := by
  cases want <;> simp [State.takes]

section
variable {s u w : State} {d x : Byte} (hd : memRead (s.cpu.pc + 1) s = some (d, u))
include hd

theorem branch_notTaken : branch false s = some (u.setPc (s.cpu.pc + 2)) := by rw [branch, hd]; rfl

variable (hx : memRead (s.cpu.pc + 2) u = some (x, w))
include hx

theorem branch_samePage (hp : hi8 (s.cpu.pc + 2 + sext16 d) = hi8 (s.cpu.pc + 2)) :
    branch true s = some (w.setPc (s.cpu.pc + 2 + sext16 d)) := by
  simp only [branch, hd, hx, Option.bind_eq_bind, Option.bind_some, if_true, if_pos hp]

theorem branch_otherPage (hp : hi8 (s.cpu.pc + 2 + sext16 d) ≠ hi8 (s.cpu.pc + 2)) {y : Byte} {w' : State}
    (hy : memRead (cat (hi8 (s.cpu.pc + 2)) (lo8 (s.cpu.pc + 2 + sext16 d))) w = some (y, w')) :
    branch true s = some (w'.setPc (s.cpu.pc + 2 + sext16 d)) := by
  simp only [branch, hd, hx, hy, Option.bind_eq_bind, Option.bind_some, if_true, if_neg hp]

end

/-- A branch that is not taken reads the displacement only (R280). -/
theorem branch_notTaken_reads {s : State} (ha : s.answered) :
    ∃ d u, s.reads [(s.cpu.pc + 1, d)] u ∧
      branch false s = some { u with cpu := { s.cpu with pc := s.cpu.pc + 2 } } := by
  obtain ⟨d, u, hd⟩ := memRead_complete ha (s.cpu.pc + 1)
  have r := memRead_reads hd
  exact ⟨d, u, r, by rw [branch_notTaken hd, setPc_of_onlyRead r.onlyRead]⟩

/-- The reads of a taken branch after that of its displacement (R280). -/
def takenReads (next target : Addr) : List Addr :=
  if hi8 target = hi8 next then [next] else [next, cat (hi8 next) (lo8 target)]

/-- A branch that is taken reads at the next instruction and, where the target lies in another page, once more. -/
theorem branch_taken_reads {s : State} (ha : s.answered) :
    ∃ d xs u, s.reads ((s.cpu.pc + 1, d) :: xs) u ∧
      xs.map Prod.fst = takenReads (s.cpu.pc + 2) (s.cpu.pc + 2 + sext16 d) ∧
      branch true s = some { u with cpu := { s.cpu with pc := s.cpu.pc + 2 + sext16 d } } := by
  obtain ⟨d, u, hd⟩ := memRead_complete ha (s.cpu.pc + 1)
  obtain ⟨x, w, hx, r⟩ := (memRead_reads hd).more ha (s.cpu.pc + 2)
  by_cases hp : hi8 (s.cpu.pc + 2 + sext16 d) = hi8 (s.cpu.pc + 2)
  · exact ⟨d, [(s.cpu.pc + 2, x)], w, r, (if_pos hp).symm,
      by rw [branch_samePage hd hx hp, setPc_of_onlyRead r.onlyRead]⟩
  · obtain ⟨y, w', hy, r'⟩ := r.more ha (cat (hi8 (s.cpu.pc + 2)) (lo8 (s.cpu.pc + 2 + sext16 d)))
    exact ⟨d, [(s.cpu.pc + 2, x), (_, y)], w', r', (if_neg hp).symm,
      by rw [branch_otherPage hd hx hp hy, setPc_of_onlyRead r'.onlyRead]⟩

/-- The eight branches select and run the branch sequence on their flag (R281 to R288). -/
theorem exec_branches (s : State) :
    ∀ b ∈ [(Instr.bpl, 0x10#8, Flag.n, false), (.bmi, 0x30#8, .n, true), (.bvc, 0x50#8, .v, false),
        (.bvs, 0x70#8, .v, true), (.bcc, 0x90#8, .c, false), (.bcs, 0xB0#8, .c, true), (.bne, 0xD0#8, .z, false),
        (.beq, 0xF0#8, .z, true)],
      b.1.opcode = b.2.1 ∧ exec b.1 s = complete (branch (s.takes b.2.2.1 b.2.2.2) s) := by
  intro b hb
  fin_cases hb <;> exact ⟨rfl, rfl⟩

/-! ### Jumps -/

theorem operandWord_reads {s : State} (ha : s.answered) :
    ∃ lo hi u, operandWord s = some (cat hi lo, u) ∧ s.reads [(s.cpu.pc + 1, lo), (s.cpu.pc + 2, hi)] u := by
  obtain ⟨lo, u, h1⟩ := memRead_complete ha (s.cpu.pc + 1)
  obtain ⟨hi, w, h2, r⟩ := (memRead_reads h1).more ha (s.cpu.pc + 2)
  exact ⟨lo, hi, w, by simp only [operandWord, h1, h2, Option.bind_eq_bind, Option.bind_some], r⟩

/-- JMP absolute reads its operand and goes there (R290). -/
theorem jmp_reads {s : State} (ha : s.answered) :
    ∃ lo hi u, s.reads [(s.cpu.pc + 1, lo), (s.cpu.pc + 2, hi)] u ∧
      jmp s = some { u with cpu := { s.cpu with pc := cat hi lo } } := by
  obtain ⟨lo, hi, u, hw, r⟩ := operandWord_reads ha
  exact ⟨lo, hi, u, r, by rw [jmp, hw, ← setPc_of_onlyRead r.onlyRead]; rfl⟩

/-- JMP indirect reads its pointer and then the target, both bytes in the page of the pointer (R291). -/
theorem jmpIndirect_reads {s : State} (ha : s.answered) :
    ∃ lo hi tl th u,
      s.reads [(s.cpu.pc + 1, lo), (s.cpu.pc + 2, hi), (cat hi lo, tl), (cat hi (lo + 1), th)] u ∧
      jmpIndirect s = some { u with cpu := { s.cpu with pc := cat th tl } } := by
  obtain ⟨lo, hi, u, hw, r⟩ := operandWord_reads ha
  obtain ⟨tl, u', h1, r'⟩ := r.more ha (cat hi lo)
  obtain ⟨th, u'', h2, r''⟩ := r'.more ha (cat hi (lo + 1))
  refine ⟨lo, hi, tl, th, u'', r'', ?_⟩
  rw [← setPc_of_onlyRead r''.onlyRead]
  simp only [jmpIndirect, hw, hi8_cat, lo8_cat, h1, h2, Option.bind_eq_bind, Option.bind_some]

/-! ### Subroutines -/

/-- JSR: two reads, the two stores of `PC + 2`, and only then the read of the high operand byte (R292). -/
theorem jsr_spec {s : State} (ha : s.answered) :
    ∃ lo x hi u t w, s.reads [(s.cpu.pc + 1, lo), (s.stack s.cpu.sp, x)] u ∧
      u.stores [(s.stack s.cpu.sp, hi8 (s.cpu.pc + 2)), (s.stack (s.cpu.sp - 1), lo8 (s.cpu.pc + 2))] t ∧
      t.reads [(s.cpu.pc + 2, hi)] w ∧
      jsr s = some { w with cpu := { s.cpu with sp := s.cpu.sp - 2, pc := cat hi lo } } := by
  obtain ⟨lo, u, h1⟩ := memRead_complete ha (s.cpu.pc + 1)
  have r := memRead_reads h1
  obtain ⟨x, u', h2, r'⟩ := r.more ha (stackAddr u)
  rw [stackAddr_of_onlyRead r.onlyRead] at r'
  obtain ⟨t, st, hp⟩ := pushWord_withCpu (s.cpu.pc + 2) u' s.cpu
  obtain ⟨hi, w, h3⟩ := memRead_complete (st.answered (r'.answered ha)) (s.cpu.pc + 2)
  have hu : ({ u' with cpu := s.cpu } : State) = u' := by rw [← r'.onlyRead.cpu]
  rw [hu] at hp
  simp only [State.stack_of_cfg r'.onlyRead.cfg] at st
  refine ⟨lo, x, hi, u', t, w, r', st, memRead_reads h3, ?_⟩
  simp only [jsr, h1, h2, hp, memRead_withCpu_some h3, Option.bind_eq_bind, Option.bind_some, State.setPc]

/-- RTS: two dummy reads, the two pulls, and a dummy read at the address pulled (R293). -/
theorem rts_reads {s : State} (ha : s.answered) :
    ∃ d x lo hi y u, s.reads [(s.cpu.pc + 1, d), (s.stack s.cpu.sp, x), (s.stack (s.cpu.sp + 1), lo),
        (s.stack (s.cpu.sp + 2), hi), (cat hi lo, y)] u ∧
      rts s = some { u with cpu := { s.cpu with sp := s.cpu.sp + 2, pc := cat hi lo + 1 } } := by
  obtain ⟨d, x, u, u', h1, h2, r2⟩ := amImp_stackTop_reads ha
  obtain ⟨lo, u3, h3, r3⟩ := r2.more ha (s.stack (s.cpu.sp + 1))
  obtain ⟨hi, u4, h4, r4⟩ := r3.more ha (s.stack (s.cpu.sp + 2))
  obtain ⟨y, u5, h5, r5⟩ := r4.more ha (cat hi lo)
  have hpull : pullWord u' = some (cat hi lo, { u4 with cpu := { s.cpu with sp := s.cpu.sp + 2 } }) := by
    rw [← r2.onlyRead.cpu] at h3 h4 ⊢
    exact pullWord_withCpu (State.stack_of_cfg r2.onlyRead.cfg _) (State.stack_of_cfg r2.onlyRead.cfg _) h3 h4
  refine ⟨d, x, lo, hi, y, u5, r5, ?_⟩
  simp only [rts, h1, h2, hpull, memRead_withCpu_some h5, Option.bind_eq_bind, Option.bind_some, State.setPc]

/-! ### Interrupt entry and RTI -/

theorem State.stores.sched {u t : State} {l : List (Addr × Byte)} (h : u.stores l t) : t.sched = u.sched := by
  induction l generalizing u with
  | nil => rw [h]
  | cons r l ih => obtain ⟨w, hw, h⟩ := h; rw [ih h, hw.sched]

/-- An interrupt: two dummy reads at `PC`, the three stores with `B` clear, and the reads of the vector (60_exceptions
R408). -/
theorem interrupt_spec {s : State} (ha : s.answered) (vec : Addr) :
    ∃ d d' u t lo hi w, s.reads [(s.cpu.pc, d), (s.cpu.pc, d')] u ∧
      u.stores [(s.stack s.cpu.sp, hi8 s.cpu.pc), (s.stack (s.cpu.sp - 1), lo8 s.cpu.pc),
        (s.stack (s.cpu.sp - 2), putFlag .b false s.cpu.p)] t ∧
      t.reads [(vec, lo), (vec + 1, hi)] w ∧
      interrupt vec s = some { w with
        cpu := { s.cpu with
          sp := s.cpu.sp - 3, p := putFlag .i true (putFlag .b false s.cpu.p), pc := cat hi lo }
        sched := { s.sched with ir := none } } := by
  obtain ⟨d, u, h1⟩ := memRead_complete ha s.cpu.pc
  obtain ⟨d', u', h2, r⟩ := (memRead_reads h1).more ha s.cpu.pc
  obtain ⟨t, lo, hi, w, st, rv, he⟩ := takeException_spec (r.answered ha) s.cpu.pc false vec
  have hs : w.sched = s.sched := by rw [rv.onlyRead.sched, st.sched, r.onlyRead.sched]
  simp only [State.stack_of_cfg r.onlyRead.cfg, r.onlyRead.cpu] at st he
  refine ⟨d, d', u', t, lo, hi, w, r, st, rv, ?_⟩
  simp only [interrupt, h1, h2, he, Option.bind_eq_bind, Option.bind_some, State.clearIr, State.setSched, hs]

/-- RTI: two dummy reads and then the three pulls (45_stack_flag_system R331). -/
theorem rti_reads {s : State} (ha : s.answered) :
    ∃ d x f lo hi u, s.reads [(s.cpu.pc + 1, d), (s.stack s.cpu.sp, x), (s.stack (s.cpu.sp + 1), f),
        (s.stack (s.cpu.sp + 2), lo), (s.stack (s.cpu.sp + 3), hi)] u ∧
      rti s = some { u with cpu := { s.cpu with sp := s.cpu.sp + 3, p := flagsFrom f, pc := cat hi lo } } := by
  obtain ⟨d, x, u, u', h1, h2, r2⟩ := amImp_stackTop_reads ha
  obtain ⟨f, u3, h3, r3⟩ := r2.more ha (s.stack (s.cpu.sp + 1))
  obtain ⟨lo, u4, h4, r4⟩ := r3.more ha (s.stack (s.cpu.sp + 2))
  obtain ⟨hi, u5, h5, r5⟩ := r4.more ha (s.stack (s.cpu.sp + 3))
  refine ⟨d, x, f, lo, hi, u5, r5, ?_⟩
  simp only [← State.stack_of_cfg r2.onlyRead.cfg, ← r2.onlyRead.cpu] at h3 h4 h5 ⊢
  simp only [rti, h1, h2, Option.bind_eq_bind, Option.bind_some]
  exact returnFromException_withCpu h3 h4 h5

/-! ### What is stored is what is pulled -/

/-- After stores at different addresses below the ROM window, each byte reads back at its address. -/
theorem State.stores.view_stored {u t : State} {l : List (Addr × Byte)} (h : u.stores l t)
    (hd : (l.map Prod.fst).Nodup) (hr : ∀ r ∈ l, r.1 < u.cfg.romBase) : ∀ r ∈ l, t.view r.1 = r.2 := by
  induction l generalizing u with
  | nil => simp
  | cons r l ih =>
    obtain ⟨w, hw, h⟩ := h
    obtain ⟨hn, hd⟩ := List.nodup_cons.mp hd
    obtain ⟨hr0, hr⟩ := List.forall_mem_cons.mp hr
    refine List.forall_mem_cons.mpr ⟨?_, ih h hd (by rw [hw.cfg]; exact hr)⟩
    rw [h.view_other fun q hq he => hn (List.mem_map.mpr ⟨q, hq, he.symm⟩), hw.view_same hr0]

/-- With the stack page below the ROM window at a page boundary, bytes pushed at different stack pointers are read back
after any further reads on a quiet memory. -/
theorem view_pushed {s u t w : State} {l : List (Byte × Byte)} (hpage : lo8 s.cfg.stackBase = 0)
    (hrom : ∀ x, s.stack x < s.cfg.romBase) (hu : u.cfg = s.cfg)
    (hst : u.stores (l.map fun r => (s.stack r.1, r.2)) t) (htw : t.onlyRead w) (hq : t.quiet)
    (hd : (l.map Prod.fst).Nodup) : ∀ r ∈ l, w.view (s.stack r.1) = r.2 := by
  intro r hr
  have hinj : Function.Injective s.stack := fun x y he => by_contra fun hne => State.stack_ne hpage hne he
  have hd' : ((l.map fun r => (s.stack r.1, r.2)).map Prod.fst).Nodup := by
    simpa only [List.map_map, Function.comp_def] using hd.map hinj
  have hbelow : ∀ p ∈ l.map fun r => (s.stack r.1, r.2), p.1 < u.cfg.romBase := by
    rw [hu]; exact List.forall_mem_map.mpr fun q _ => hrom q.1
  rw [htw.view_of_quiet hq]
  exact hst.view_stored hd' hbelow (s.stack r.1, r.2) (List.mem_map_of_mem hr)

theorem stackPointers_nodup (sp : Byte) : [sp, sp - 1, sp - 2].Nodup := by
  simp only [List.nodup_cons, List.mem_cons, List.not_mem_nil, List.nodup_nil, or_false, not_or, not_false_eq_true,
    and_true]
  bv_omega

/-- What `P` is loaded from a flags byte whose bit 5 is set is that byte (10_state R26). -/
theorem flagsFrom_of_bit5 {p : Byte} (h : flagOf p .u = true) : flagsFrom p = p :=
  flags_ext fun f => by cases f <;> simp [h]

/-- RTS on a quiet memory: `PC` is one past the address above the stack top (R293). -/
theorem rts_quiet {s : State} (hq : s.quiet) : ∃ w, rts s = some w ∧ w.cpu = { s.cpu with
    sp := s.cpu.sp + 2
    pc := cat (s.view (s.stack (s.cpu.sp + 2))) (s.view (s.stack (s.cpu.sp + 1))) + 1 } := by
  obtain ⟨d, x, lo, hi, y, u, ⟨-, -, hbytes⟩, he⟩ := rts_reads hq.answered
  obtain ⟨-, -, hlo, hhi, -⟩ : _ ∧ _ ∧ lo = _ ∧ hi = _ ∧ _ := by simpa using (hbytes hq).1
  subst hlo hhi
  exact ⟨_, he, rfl⟩

/-- RTI on a quiet memory: the flags and `PC` are those above the stack top (45_stack_flag_system R331). -/
theorem rti_quiet {s : State} (hq : s.quiet) : ∃ w, rti s = some w ∧ w.cpu = { s.cpu with
    sp := s.cpu.sp + 3
    p := flagsFrom (s.view (s.stack (s.cpu.sp + 1)))
    pc := cat (s.view (s.stack (s.cpu.sp + 3))) (s.view (s.stack (s.cpu.sp + 2))) } := by
  obtain ⟨d, x, f, lo, hi, u, ⟨-, -, hbytes⟩, he⟩ := rti_reads hq.answered
  obtain ⟨-, -, hf, hlo, hhi⟩ : _ ∧ _ ∧ f = _ ∧ lo = _ ∧ hi = _ := by simpa using (hbytes hq).1
  subst hf hlo hhi
  exact ⟨_, he, rfl⟩

section
variable {s : State} (hq : s.quiet) (hpage : lo8 s.cfg.stackBase = 0) (hrom : ∀ x, s.stack x < s.cfg.romBase)
include hq hpage hrom

/-- JSR leaves the address `PC + 2` above the stack top (R292). -/
theorem jsr_quiet : ∃ t, jsr s = some t ∧ t.quiet ∧ t.cfg = s.cfg ∧
    (∃ a, t.cpu = { s.cpu with sp := s.cpu.sp - 2, pc := a }) ∧
    t.view (s.stack s.cpu.sp) = hi8 (s.cpu.pc + 2) ∧ t.view (s.stack (s.cpu.sp - 1)) = lo8 (s.cpu.pc + 2) := by
  obtain ⟨lo, x, hi, u, t, w, r, st, r', he⟩ := jsr_spec hq.answered
  have ht : t.quiet := st.quiet (r.onlyRead.quiet hq)
  have hview := view_pushed (l := [(s.cpu.sp, hi8 (s.cpu.pc + 2)), (s.cpu.sp - 1, lo8 (s.cpu.pc + 2))]) hpage hrom
    r.onlyRead.cfg st r'.onlyRead ht
    (List.Nodup.of_append_left (l₂ := [s.cpu.sp - 2]) (stackPointers_nodup s.cpu.sp))
  simp only [List.forall_mem_cons] at hview
  obtain ⟨hhi, hlo, -⟩ := hview
  refine ⟨_, he, r'.onlyRead.quiet ht, ?_, ⟨_, rfl⟩, hhi, hlo⟩
  exact r'.onlyRead.cfg.trans (st.cfg.trans r.onlyRead.cfg)

/-- An interrupt leaves the flags with `B` clear and then `PC` above the stack top (60_exceptions R408). -/
theorem interrupt_quiet (vec : Addr) : ∃ t, interrupt vec s = some t ∧ t.quiet ∧ t.cfg = s.cfg ∧
    (∃ p a, t.cpu = { s.cpu with sp := s.cpu.sp - 3, p := p, pc := a }) ∧
    t.view (s.stack s.cpu.sp) = hi8 s.cpu.pc ∧ t.view (s.stack (s.cpu.sp - 1)) = lo8 s.cpu.pc ∧
    t.view (s.stack (s.cpu.sp - 2)) = putFlag .b false s.cpu.p := by
  obtain ⟨d, d', u, t, lo, hi, w, r, st, r', he⟩ := interrupt_spec hq.answered vec
  have ht : t.quiet := st.quiet (r.onlyRead.quiet hq)
  have hview := view_pushed (l := [(s.cpu.sp, hi8 s.cpu.pc), (s.cpu.sp - 1, lo8 s.cpu.pc),
    (s.cpu.sp - 2, putFlag .b false s.cpu.p)]) hpage hrom r.onlyRead.cfg st r'.onlyRead ht
    (stackPointers_nodup s.cpu.sp)
  simp only [List.forall_mem_cons] at hview
  obtain ⟨hhi, hlo, hp, -⟩ := hview
  refine ⟨_, he, r'.onlyRead.quiet ht, ?_, ⟨_, _, rfl⟩, hhi, hlo, hp⟩
  exact r'.onlyRead.cfg.trans (st.cfg.trans r.onlyRead.cfg)

/-- RTS after JSR pulls the address that JSR pushed, and continues one past it, at `PC + 3`. -/
theorem rts_after_jsr : ∃ t w, jsr s = some t ∧ rts t = some w ∧ w.cpu = { s.cpu with pc := s.cpu.pc + 3 } := by
  obtain ⟨t, he, ht, hcfg, ⟨a, hcpu⟩, hhi, hlo⟩ := jsr_quiet hq hpage hrom
  obtain ⟨w, he', hw⟩ := rts_quiet ht
  refine ⟨t, w, he, he', ?_⟩
  have e2 : s.cpu.sp - 2 + 2 = s.cpu.sp := BitVec.sub_add_cancel _ _
  have e1 : s.cpu.sp - 2 + 1 = s.cpu.sp - 1 := by bv_omega
  have epc : s.cpu.pc + 2 + 1 = s.cpu.pc + 3 := by bv_omega
  rw [hw, hcpu]
  simp only [State.stack_of_cfg hcfg, e2, e1, hhi, hlo, cat_eta, epc]

/-- RTI after an interrupt pulls the flags and the address that the interrupt pushed. -/
theorem rti_after_interrupt (vec : Addr) (hu : s.flag .u = true) : ∃ t w,
    interrupt vec s = some t ∧ rti t = some w ∧ w.cpu = { s.cpu with p := putFlag .b false s.cpu.p } := by
  obtain ⟨t, he, ht, hcfg, ⟨p, a, hcpu⟩, hhi, hlo, hp⟩ := interrupt_quiet hq hpage hrom vec
  obtain ⟨w, he', hw⟩ := rti_quiet ht
  refine ⟨t, w, he, he', ?_⟩
  have e3 : s.cpu.sp - 3 + 3 = s.cpu.sp := BitVec.sub_add_cancel _ _
  have e2 : s.cpu.sp - 3 + 2 = s.cpu.sp - 1 := by bv_omega
  have e1 : s.cpu.sp - 3 + 1 = s.cpu.sp - 2 := by bv_omega
  have hflags : flagsFrom (putFlag .b false s.cpu.p) = putFlag .b false s.cpu.p :=
    flagsFrom_of_bit5 ((flagOf_putFlag .b .u false s.cpu.p).trans hu)
  rw [hw, hcpu]
  simp only [State.stack_of_cfg hcfg, e3, e2, e1, hhi, hlo, hp, cat_eta, hflags]

end

end Sys2Proof.Machine

open Sys2Proof Sys2Proof.Machine

/-- Settles O42: the flag decides which of the two branch sequences runs; the clause of the other one is empty. -/
theorem branchesTestOneFlag : Obligations.BranchesTestOneFlag := by
  unfold Obligations.BranchesTestOneFlag
  intro s ha b hb
  obtain ⟨hop, hex⟩ := exec_branches s b hb
  refine ⟨by rw [← hop, decodeOpcode_opcode], ?_⟩
  rw [hex]
  cases ht : s.takes b.2.2.1 b.2.2.2 with
  | false =>
    have hf : s.flag b.2.2.1 ≠ b.2.2.2 := by rw [ne_eq, ← s.takes_iff, ht]; simp
    obtain ⟨d, u, r, he⟩ := branch_notTaken_reads ha
    exact ⟨d, [], u, r, fun _ => ⟨rfl, congrArg complete he⟩, fun h => absurd h hf⟩
  | true =>
    have hf : s.flag b.2.2.1 = b.2.2.2 := (s.takes_iff _ _).mp ht
    obtain ⟨d, xs, u, r, hxs, he⟩ := branch_taken_reads ha
    exact ⟨d, xs, u, r, fun h => absurd hf h, fun _ => ⟨hxs, congrArg complete he⟩⟩

/-- Settles O43: the reads of each jump give the bytes of its target. -/
theorem jumpsGoToTheirTarget : Obligations.JumpsGoToTheirTarget := by
  unfold Obligations.JumpsGoToTheirTarget
  intro s ha
  refine ⟨⟨decodeOpcode_opcode .jmpAbs, ?abs⟩, decodeOpcode_opcode .jmpInd, ?ind⟩
  case abs =>
    obtain ⟨lo, hi, u, r, he⟩ := jmp_reads ha
    exact ⟨lo, hi, u, r, congrArg complete he⟩
  case ind =>
    obtain ⟨lo, hi, tl, th, u, r, he⟩ := jmpIndirect_reads ha
    exact ⟨lo, hi, tl, th, u, r, congrArg complete he⟩

/-- Settles O44 by `jsr_spec`. -/
theorem subroutineCall : Obligations.SubroutineCall := by
  unfold Obligations.SubroutineCall
  intro s ha
  obtain ⟨lo, x, hi, u, t, w, r, st, r', he⟩ := jsr_spec ha
  exact ⟨decodeOpcode_opcode .jsr, lo, x, hi, u, t, w, r, st, r', congrArg complete he⟩

/-- Settles O45 by `rts_reads`. -/
theorem subroutineReturn : Obligations.SubroutineReturn := by
  unfold Obligations.SubroutineReturn
  intro s ha
  obtain ⟨d, x, lo, hi, y, u, r, he⟩ := rts_reads ha
  exact ⟨decodeOpcode_opcode .rts, d, x, lo, hi, y, u, r, congrArg complete he⟩

/-- Settles O52: on a quiet memory each return pulls the bytes that its entry pushed. -/
theorem returnsUndoTheirEntries : Obligations.ReturnsUndoTheirEntries := by
  unfold Obligations.ReturnsUndoTheirEntries
  intro s hq hpage hrom
  refine ⟨?subroutine, fun vec hu => ?interrupt⟩
  case subroutine =>
    obtain ⟨t, w, he, he', hw⟩ := rts_after_jsr hq hpage hrom
    exact ⟨t, w, congrArg complete he, congrArg complete he', hw⟩
  case interrupt =>
    obtain ⟨t, w, he, he', hw⟩ := rti_after_interrupt hq hpage hrom vec hu
    exact ⟨t, w, he, congrArg complete he', hw⟩
end

section
/-! The statements about the stack, flag and system instructions (45_stack_flag_system) and the NOPs. Every instruction
here begins with `AM_imp` or `ReadOp`, which change no register; what follows is one lemma for each meaning, and the laws
of the stack and of exceptions give its stores, its pulls and the registers it leaves. -/

namespace Sys2Proof.Machine

open Sys2Proof

/-! ### The dispatch -/

/-- The implied NOPs select and run the same meaning (R321, 46_illegal R355). -/
theorem exec_nops (s : State) :
    ∀ n ∈ [(Instr.nop, 0xEA#8), (.nop1A, 0x1A#8), (.nop3A, 0x3A#8), (.nop5A, 0x5A#8), (.nop7A, 0x7A#8),
        (.nopDA, 0xDA#8), (.nopFA, 0xFA#8)], n.1.opcode = n.2 ∧ exec n.1 s = complete (nopImplied s) := by
  intro n hn
  fin_cases hn <;> exact ⟨rfl, rfl⟩

/-- The opcode bytes of the NOPs with an operand select them, and `exec` runs each with the mode of its form
(46_illegal R356 to R360). -/
theorem exec_nopForms (s : State) :
    ∀ f ∈ nopForms, decodeOpcode f.byte = f.instr ∧ exec f.instr s = complete (nopRead f.mode s) :=
  forms_dispatch (by decide) fun f hf => by fin_cases hf <;> rfl

/-- The seven flag instructions select and run the write of their flag (R314 to R320). -/
theorem exec_flagInstructions (s : State) :
    ∀ r ∈ [(Instr.clc, 0x18#8, Flag.c, false), (.sec, 0x38#8, .c, true), (.cli, 0x58#8, .i, false),
        (.sei, 0x78#8, .i, true), (.cld, 0xD8#8, .d, false), (.sed, 0xF8#8, .d, true), (.clv, 0xB8#8, .v, false)],
      r.1.opcode = r.2.1 ∧ exec r.1 s = complete (writeFlag r.2.2.1 r.2.2.2 s) := by
  intro r hr
  fin_cases hr <;> exact ⟨rfl, rfl⟩

/-! ### What each meaning answers after its accesses -/

theorem nopRead_of_readOp {m : AddrMode} {v : Byte} {s u : State} (h : readOp m s = some (v, u)) :
    nopRead m s = some (u.advance m.length) := by rw [nopRead, h]; rfl

section
variable {s u : State} (h : amImp s = some u)
include h

theorem nopImplied_of_amImp : nopImplied s = some (u.advance 1) := by rw [nopImplied, h]; rfl

theorem writeFlag_of_amImp (f : Flag) (on : Bool) : writeFlag f on s = some ((u.setFlag f on).advance 1) := by
  rw [writeFlag, h]; rfl

theorem pha_of_amImp : pha s = some ((push u.cpu.a u).advance 1) := by rw [pha, h]; rfl

theorem php_of_amImp : php s = some ((push (u.cpu.p ||| 0x30) u).advance 1) := by rw [php, h]; rfl

theorem brk_of_amImp : brk s = takeException (s.cpu.pc + 2) true s.cfg.vecIrq u := by rw [brk, h]; rfl

variable {x v : Byte} {u' t : State} (hx : memRead (stackAddr u) u = some (x, u')) (hv : pull u' = some (v, t))
include hx hv

theorem pla_of_pull : pla s = some (((t.setA v).setNZ v).advance 1) := by
  simp only [pla, h, hx, hv, Option.bind_eq_bind, Option.bind_some]

theorem plp_of_pull : plp s = some ((t.setP (flagsFrom v)).advance 1) := by
  simp only [plp, h, hx, hv, Option.bind_eq_bind, Option.bind_some]

end

/-! ### Pushes -/

/-- After reads, a push and the advance of `PC` are one store at the stack top and the two registers (00_scope R11). -/
theorem push_advance_of_onlyRead {s u : State} (h : s.onlyRead u) (v : Byte) :
    ∃ t, u.stores [(s.stack s.cpu.sp, v)] t ∧
      (push v u).advance 1 = { t with cpu := { s.cpu with sp := s.cpu.sp - 1, pc := s.cpu.pc + 1 } } := by
  obtain ⟨t, st, he⟩ := push_withCpu v u u.cpu
  rw [State.stack_of_cfg h.cfg, h.cpu] at st
  refine ⟨t, .cons st rfl, ?_⟩
  rw [he, ← h.cpu]; rfl

/-- PHA and PHP push their byte after `AM_imp` (R310, R312). -/
theorem exec_pushes {s u : State} (h : amImp s = some u) (hc : u.cpu = s.cpu) :
    ∀ r ∈ [(Instr.pha, 0x48#8, s.cpu.a), (.php, 0x08#8, s.cpu.p ||| 0x30#8)],
      r.1.opcode = r.2.1 ∧ exec r.1 s = .next ((push r.2.2 u).advance 1) := by
  rw [← hc]
  simp only [List.forall_mem_cons]
  exact ⟨⟨rfl, congrArg complete (pha_of_amImp h)⟩, ⟨rfl, congrArg complete (php_of_amImp h)⟩, by simp⟩

/-! ### Pulls -/

/-- The two dummy reads and the pull with which PLA and PLP begin (R311, R313). -/
theorem amImp_stackTop_pull_reads {s : State} (ha : s.answered) :
    ∃ d x v u u' w, amImp s = some u ∧ memRead (stackAddr u) u = some (x, u') ∧
      pull u' = some (v, { w with cpu := { s.cpu with sp := s.cpu.sp + 1 } }) ∧
      s.reads [(s.cpu.pc + 1, d), (s.stack s.cpu.sp, x), (s.stack (s.cpu.sp + 1), v)] w := by
  obtain ⟨d, x, u, u', h1, h2, r2⟩ := amImp_stackTop_reads ha
  obtain ⟨v, w, h3, r3⟩ := r2.more ha (s.stack (s.cpu.sp + 1))
  refine ⟨d, x, v, u, u', w, h1, h2, ?_, r3⟩
  rw [← r2.onlyRead.cpu] at h3 ⊢
  exact pull_withCpu (State.stack_of_cfg r2.onlyRead.cfg _) h3

/-! ### BRK -/

/-- Writing two different flags changes these two. -/
theorem flagsAre_putFlag_putFlag {f g : Flag} (hfg : f ≠ g) (x y : Bool) (p : Byte) :
    flagsAre p (putFlag g y (putFlag f x p)) [(f, x), (g, y)] := by
  intro k
  rcases eq_or_ne k f with rfl | hf
  · simp [updated, hfg]
  · rcases eq_or_ne k g with rfl | hg
    · simp [updated, hf]
    · simp [updated, hf, hg]

end Sys2Proof.Machine

open Sys2Proof Sys2Proof.Machine

/-- Settles O40: `AM_imp` and `ReadOp` change no register, and a NOP does nothing after them but advance `PC`. -/
theorem noOperationsOnlyRead : Obligations.NoOperationsOnlyRead := by
  unfold Obligations.NoOperationsOnlyRead
  intro s ha
  refine ⟨fun n hn => ?implied, ?operand⟩
  case implied =>
    obtain ⟨hop, hex⟩ := exec_nops s n hn
    refine implied_of ha (by rw [← hop, decodeOpcode_opcode]) hex fun u hu hc => ⟨s.cpu.p, flagsAre_nil s.cpu.p, ?_⟩
    rw [nopImplied_of_amImp hu, ← hc]; rfl
  case operand =>
    refine readForms_of ha (exec_nopForms s) fun m v u hu hc => ⟨s.cpu.p, flagsAre_nil s.cpu.p, ?_⟩
    rw [nopRead_of_readOp hu, ← hc]; rfl

/-- Settles O46: the push after `AM_imp` is one store at the stack top. -/
theorem pushesStoreAtTheStackTop : Obligations.PushesStoreAtTheStackTop := by
  unfold Obligations.PushesStoreAtTheStackTop
  intro s ha r hr
  obtain ⟨d, u, hu, hd⟩ := amImp_reads ha
  obtain ⟨hop, hex⟩ := exec_pushes hu hd.onlyRead.cpu r hr
  obtain ⟨t, st, he⟩ := push_advance_of_onlyRead hd.onlyRead r.2.2
  exact ⟨by rw [← hop, decodeOpcode_opcode], d, u, t, hd, st, by rw [hex, he]⟩

/-- Settles O47: the two pulls make the same reads; `putNZ` and `flagsFrom` give the flags. -/
theorem pullsReadAboveTheStackTop : Obligations.PullsReadAboveTheStackTop := by
  unfold Obligations.PullsReadAboveTheStackTop
  intro s ha
  obtain ⟨d, x, v, u, u', w, hu, hx, hv, r⟩ := amImp_stackTop_pull_reads ha
  refine ⟨⟨decodeOpcode_opcode .pla, ?pla⟩, decodeOpcode_opcode .plp, ?plp⟩
  case pla =>
    exact ⟨d, x, v, w, putNZ v s.cpu.p, r, flagsAre_putNZ' v s.cpu.p, congrArg complete (pla_of_pull hu hx hv)⟩
  case plp => exact ⟨d, x, v, w, r, congrArg complete (plp_of_pull hu hx hv)⟩

/-- Settles O48: after `AM_imp` a flag instruction is `putFlag` of its flag, and `PC`. -/
theorem flagInstructionsWriteOneFlag : Obligations.FlagInstructionsWriteOneFlag := by
  unfold Obligations.FlagInstructionsWriteOneFlag
  intro s ha r hr
  obtain ⟨hop, hex⟩ := exec_flagInstructions s r hr
  refine implied_of ha (by rw [← hop, decodeOpcode_opcode]) hex fun u hu hc =>
    ⟨_, flagsAre_putFlag r.2.2.1 r.2.2.2 s.cpu.p, ?_⟩
  rw [writeFlag_of_amImp hu, ← hc]; rfl

/-- Settles O49: after `AM_imp` BRK takes the exception (`takeException_spec`) with `B` set and `PC + 2` to return to. -/
theorem breakTakesTheTrap : Obligations.BreakTakesTheTrap := by
  unfold Obligations.BreakTakesTheTrap
  intro s ha
  obtain ⟨d, u, hu, r⟩ := amImp_reads ha
  obtain ⟨t, lo, hi, w, st, rv, he⟩ := takeException_spec (r.answered ha) (s.cpu.pc + 2) true s.cfg.vecIrq
  simp only [State.stack_of_cfg r.onlyRead.cfg, r.onlyRead.cpu] at st he
  exact ⟨decodeOpcode_opcode .brk, d, u, putFlag .b true s.cpu.p, t, lo, hi, w, _, r,
    flagsAre_putFlag .b true s.cpu.p, st, rv, flagsAre_putFlag_putFlag (by decide) true true s.cpu.p,
    congrArg complete ((brk_of_amImp hu).trans he)⟩

/-- Settles O50 by `rti_reads`; `flagsFrom` sets bit 5. -/
theorem returnFromInterrupt : Obligations.ReturnFromInterrupt := by
  unfold Obligations.ReturnFromInterrupt
  intro s ha
  obtain ⟨d, x, f, lo, hi, u, r, he⟩ := rti_reads ha
  exact ⟨decodeOpcode_opcode .rti, d, x, f, lo, hi, u, r, congrArg complete he⟩
end

section
/-! The statements about the illegal opcodes (46_illegal). A combination that modifies memory is `RmwOp` of a byte
operation of 43_rmw_incdec_shift and then new registers and flags (`modifyForms_of_rmwOp_then`); flags written twice are
composed by `flagsAre.trans`. A combination that reads is `ReadOp` and one operation on bytes. What halts the engine is
read off from all that a step can do (`step_cases`). -/

namespace Sys2Proof.Machine

open Sys2Proof

/-! ### Flags written in turn -/

theorem updated_append (l l' : List (Flag × Bool)) (g : Flag) (old : Bool) :
    updated (l ++ l') g old = updated l g (updated l' g old) := by
  induction l with
  | nil => rfl
  | cons r l ih => simp only [List.cons_append, updated, ih]

/-- Of two writes the later one counts. -/
theorem flagsAre.trans {p q r : Byte} {l l' : List (Flag × Bool)} (h : flagsAre p q l) (h' : flagsAre q r l') :
    flagsAre p r (l' ++ l) := by
  intro g
  rw [h' g, h g, updated_append]

/-- Two lists of flags that update every flag alike. -/
def SameUpdates (l l' : List (Flag × Bool)) : Prop := ∀ g old, updated l g old = updated l' g old

theorem SameUpdates.flagsAre {p q : Byte} {l l' : List (Flag × Bool)} (h : SameUpdates l l') (hl : flagsAre p q l) :
    flagsAre p q l' :=
  fun g => (hl g).trans (h g _)

/-- `N` and `Z` of a second result take the place of those of the first; the carry stays. -/
theorem sameUpdates_flagsNZ (c : Bool) (r v : Byte) :
    SameUpdates (flagsNZ v ++ (.c, c) :: flagsNZ r) ((.c, c) :: flagsNZ v) := by
  intro g old; cases g <;> rfl

/-- The arithmetic flags take the place of those of a shift. -/
theorem sameUpdates_arith (c x y z w : Bool) (r : Byte) :
    SameUpdates ([(.c, x), (.v, y), (.n, z), (.z, w)] ++ (.c, c) :: flagsNZ r)
      [(.c, x), (.v, y), (.n, z), (.z, w)] := by
  intro g old; cases g <;> rfl

theorem sameUpdates_append_nil (l : List (Flag × Bool)) : SameUpdates (l ++ []) l := by
  rw [List.append_nil]; exact fun _ _ => rfl

/-! ### The byte operations -/

theorem decSilent_gives (p : Byte) : ByteOp.gives decSilent p (fun m => m - 1) (fun _ => []) :=
  fun _ => ⟨rfl, flagsAre_nil p⟩

theorem incSilent_gives (p : Byte) : ByteOp.gives incSilent p (fun m => m + 1) (fun _ => []) :=
  fun _ => ⟨rfl, flagsAre_nil p⟩

/-- `N` and `Z`, then a carry: the flags of ANC (R349). -/
theorem flagsAre_ancOp (a v p : Byte) :
    flagsAre p (ancOp a v p).2 ((.c, (a &&& v).getLsbD 7) :: flagsNZ (a &&& v)) :=
  (flagsAre_putNZ' _ p).trans (flagsAre_putFlag .c _ _)

/-- SBX sets the flags of a compare of `A & X` with the byte (R352). -/
theorem flagsAre_sbxOp (a x v p : Byte) :
    flagsAre p (sbxOp a x v p).2 ((.c, decide (v.toNat ≤ (a &&& x).toNat)) :: flagsNZ ((a &&& x) - v)) := by
  simp only [← BitVec.le_def]
  exact flagsAre_shift' _ _ p

/-- The result of ARR with `D = 0`, and its flags: `C` is bit 6 of the result and `V` is bit 6 XOR bit 5 (R351). -/
theorem arrOp_gives (a p : Byte) :
    ByteOp.gives (arrOp a) p (fun v => (a &&& v) >>> 1 ||| BitVec.ofNat 8 ((flagOf p .c).toNat * 128)) (fun v =>
      let r := (a &&& v) >>> 1 ||| BitVec.ofNat 8 ((flagOf p .c).toNat * 128)
      [(.c, r.getLsbD 6), (.v, r.getLsbD 6 ^^ r.getLsbD 5)] ++ flagsNZ r) := by
  intro v
  rw [← carryIn_bit7]
  refine ⟨rfl, SameUpdates.flagsAre ?_
    (((flagsAre_putNZ' _ p).trans (flagsAre_putFlag .c _ _)).trans (flagsAre_putFlag .v _ _))⟩
  intro g old; cases g <;> rfl

/-- `putFreeNVZC` writes N, V, Z and C and no other flag (R351, `D = 1`). -/
theorem flagsAre_putFreeNVZC (f p : Byte) : flagsAre p (putFreeNVZC f p)
    [(.n, flagOf f .n), (.v, flagOf f .v), (.z, flagOf f .z), (.c, flagOf f .c)] := by
  intro g; cases g <;> simp [updated]

/-! ### The dispatch -/

/-- The opcode bytes of SLO select it, and `exec` runs it with the mode of the form (R341). -/
theorem exec_sloForms (s : State) :
    ∀ f ∈ sloForms, decodeOpcode f.byte = f.instr ∧ exec f.instr s = complete (slo f.mode s) :=
  forms_dispatch (by decide) fun f hf => by fin_cases hf <;> rfl

/-- The opcode bytes of RLA select it, and `exec` runs it with the mode of the form (R342). -/
theorem exec_rlaForms (s : State) :
    ∀ f ∈ rlaForms, decodeOpcode f.byte = f.instr ∧ exec f.instr s = complete (rla f.mode s) :=
  forms_dispatch (by decide) fun f hf => by fin_cases hf <;> rfl

/-- The opcode bytes of SRE select it, and `exec` runs it with the mode of the form (R343). -/
theorem exec_sreForms (s : State) :
    ∀ f ∈ sreForms, decodeOpcode f.byte = f.instr ∧ exec f.instr s = complete (sre f.mode s) :=
  forms_dispatch (by decide) fun f hf => by fin_cases hf <;> rfl

/-- The opcode bytes of RRA select it, and `exec` runs it with the mode of the form (R344). -/
theorem exec_rraForms (s : State) :
    ∀ f ∈ rraForms, decodeOpcode f.byte = f.instr ∧ exec f.instr s = complete (rra f.mode s) :=
  forms_dispatch (by decide) fun f hf => by fin_cases hf <;> rfl

/-- The opcode bytes of DCP select it, and `exec` runs it with the mode of the form (R345). -/
theorem exec_dcpForms (s : State) :
    ∀ f ∈ dcpForms, decodeOpcode f.byte = f.instr ∧ exec f.instr s = complete (dcp f.mode s) :=
  forms_dispatch (by decide) fun f hf => by fin_cases hf <;> rfl

/-- The opcode bytes of ISC select it, and `exec` runs it with the mode of the form (R346). -/
theorem exec_iscForms (s : State) :
    ∀ f ∈ iscForms, decodeOpcode f.byte = f.instr ∧ exec f.instr s = complete (isc f.mode s) :=
  forms_dispatch (by decide) fun f hf => by fin_cases hf <;> rfl

/-- The opcode bytes of LAX select it, and `exec` runs it with the mode of the form (R348). -/
theorem exec_laxForms (s : State) :
    ∀ f ∈ laxForms, decodeOpcode f.byte = f.instr ∧ exec f.instr s = complete (lax f.mode s) :=
  forms_dispatch (by decide) fun f hf => by fin_cases hf <;> rfl

/-- Both opcode bytes of ANC select it (R349). -/
theorem exec_ancForms (s : State) :
    ∀ f ∈ ancForms, decodeOpcode f.byte = f.instr ∧ f.mode = .imm ∧ exec f.instr s = complete (anc s) :=
  List.forall_mem_cons.mpr ⟨⟨decodeOpcode_opcode .anc0B, rfl, rfl⟩,
    List.forall_mem_singleton.mpr ⟨decodeOpcode_opcode .anc2B, rfl, rfl⟩⟩

/-- The instructions of two bytes that only fetch their operand byte (R366, R370). -/
theorem exec_unstable2 (s : State) :
    ∀ n ∈ [(Instr.shaIzy, 0x93#8), (.aneImm, 0x8B#8)],
      n.1.opcode = n.2 ∧ exec n.1 s = complete (unstableNop2 s) := by
  intro n hn
  fin_cases hn <;> exact ⟨rfl, rfl⟩

/-- The instructions of three bytes that only fetch their operand bytes (R366 to R369). -/
theorem exec_unstable3 (s : State) :
    ∀ n ∈ [(Instr.shaAby, 0x9F#8), (.shxAby, 0x9E#8), (.shyAbx, 0x9C#8), (.tasAby, 0x9B#8)],
      n.1.opcode = n.2 ∧ exec n.1 s = complete (unstableNop3 s) := by
  intro n hn
  fin_cases hn <;> exact ⟨rfl, rfl⟩

/-- LXA is the two-byte unstable no-op where the parameter says so (R371). -/
theorem exec_lxa_nop2 {s : State} (h : s.cfg.lxa = .nop2) : exec .lxaImm s = complete (unstableNop2 s) := by
  rw [show exec .lxaImm s = complete (lxa s) from rfl, lxa, h]

/-- LXA is LAX immediate where the parameter says so (R371). -/
theorem exec_lxa_laxImm {s : State} (h : s.cfg.lxa = .laxImm) : exec .lxaImm s = complete (lax .imm s) := by
  rw [show exec .lxaImm s = complete (lxa s) from rfl, lxa, h]

/-- A JAM sets the halt and does nothing else (R372). -/
theorem exec_of_isJam {i : Instr} (h : isJam i = true) (s : State) :
    exec i s = .next { s with sched := { s.sched with halted := true } } := by
  rcases exec_effects i s with ⟨-, he⟩ | ⟨hj, -⟩
  · exact he
  · simp [h] at hj

/-! ### What each meaning answers after its accesses -/

section
variable {m : AddrMode} {v : Byte} {s t : State}

theorem slo_of_rmwOp (h : rmwOp m aslOp s = some (v, t)) :
    slo m s = some (((t.setA (t.cpu.a ||| v)).setNZ (t.cpu.a ||| v)).advance m.length) := by rw [slo, h]; rfl

theorem rla_of_rmwOp (h : rmwOp m rolOp s = some (v, t)) :
    rla m s = some (((t.setA (t.cpu.a &&& v)).setNZ (t.cpu.a &&& v)).advance m.length) := by rw [rla, h]; rfl

theorem sre_of_rmwOp (h : rmwOp m lsrOp s = some (v, t)) :
    sre m s = some (((t.setA (t.cpu.a ^^^ v)).setNZ (t.cpu.a ^^^ v)).advance m.length) := by rw [sre, h]; rfl

theorem rra_of_rmwOp (h : rmwOp m rorOp s = some (v, t)) :
    rra m s = some ((t.setArith (adder (t.flag .d) t.cpu.a v (t.flag .c))).advance m.length) := by rw [rra, h]; rfl

theorem dcp_of_rmwOp (h : rmwOp m decSilent s = some (v, t)) :
    dcp m s = some ((t.setP (putCompare t.cpu.a v t.cpu.p)).advance m.length) := by rw [dcp, h]; rfl

theorem isc_of_rmwOp (h : rmwOp m incSilent s = some (v, t)) :
    isc m s = some ((t.setArith (subtracter (t.flag .d) t.cpu.a v (t.flag .c))).advance m.length) := by
  rw [isc, h]; rfl

end

section
variable {v : Byte} {s u : State}

theorem lax_of_readOp {m : AddrMode} (h : readOp m s = some (v, u)) :
    lax m s = some ((((u.setA v).setX v).setNZ v).advance m.length) := by rw [lax, h]; rfl

theorem las_of_readOp (h : readOp .aby s = some (v, u)) :
    las s = some (((((u.setA (v &&& u.cpu.sp)).setX (v &&& u.cpu.sp)).setSp (v &&& u.cpu.sp)).setNZ
      (v &&& u.cpu.sp)).advance 3) := by rw [las, h]; rfl

variable (h : readOp .imm s = some (v, u))
include h

theorem anc_of_readOp : anc s = some
    (((u.setA (ancOp u.cpu.a v u.cpu.p).1).setP (ancOp u.cpu.a v u.cpu.p).2).advance 2) := by rw [anc, h]; rfl

theorem alr_of_readOp : alr s = some
    (((u.setA (lsrOp (u.cpu.a &&& v) u.cpu.p).1).setP (lsrOp (u.cpu.a &&& v) u.cpu.p).2).advance 2) := by
  rw [alr, h]; rfl

theorem sbx_of_readOp : sbx s = some
    (((u.setX (sbxOp u.cpu.a u.cpu.x v u.cpu.p).1).setP (sbxOp u.cpu.a u.cpu.x v u.cpu.p).2).advance 2) := by
  rw [sbx, h]; rfl

theorem arr_of_readOp_binary (hd : u.flag .d = false) : arr s = some
    (((u.setA (arrOp u.cpu.a v u.cpu.p).1).setP (arrOp u.cpu.a v u.cpu.p).2).advance 2) := by
  simp only [arr, h, hd, Option.bind_eq_bind, Option.bind_some, Bool.false_eq_true, if_false]

theorem arr_of_readOp_decimal (hd : u.flag .d = true) : arr s = some ((arrUnspecified u).advance 2) := by
  simp only [arr, h, hd, Option.bind_eq_bind, Option.bind_some, if_true]

end

/-! ### The shapes of instructions -/

section
variable {s : State} {forms : List Form} {f : ByteOp} {new : Byte → Byte} {op : AddrMode → State → Option State}

/-- What to show for an instruction that modifies a memory byte and then sets registers and, over the flags `q` of the
byte operation, the flags `put old q`. -/
theorem modifyForms_of_rmwOp_then {mid later flags : Byte → List (Flag × Bool)} {put : Byte → Byte → Byte}
    {regs : Byte → Cpu} (ha : s.answered)
    (hf : ∀ g ∈ forms, decodeOpcode g.byte = g.instr ∧ exec g.instr s = complete (op g.mode s))
    (hg : f.gives s.cpu.p new mid) (hput : ∀ old q, flagsAre q (put old q) (later old))
    (hflags : ∀ old, SameUpdates (later old ++ mid old) (flags old))
    (hop : ∀ (m : AddrMode) (old : Byte) (t : State) (q : Byte), flagsAre s.cpu.p q (mid old) →
      rmwOp m f s = some (new old, { t with cpu := { s.cpu with p := q } }) →
      op m s = some { t with cpu := { regs old with p := put old q, pc := s.cpu.pc + m.length } }) :
    s.modifyForms forms new regs flags := by
  have hnew : (fun old => (f old s.cpu.p).1) = new := funext fun old => (hg old).1
  rw [← hnew]
  refine modifyForms_of ha hf fun m old t hc ht => ?_
  obtain ⟨he, hq⟩ := hg old
  refine ⟨put old _, (hflags old).flagsAre (hq.trans (hput old _)), hop m old t _ hq ?_⟩
  rw [ht, he, ← hc]; rfl

/-- What to show for a shift of memory whose result is combined with `A`: its carry stays, and `N` and `Z` are those of
the new `A`. -/
theorem modifyForms_of_shift_then_logic {c : Byte → Bool} {comb : Byte → Byte → Byte} (ha : s.answered)
    (hf : ∀ g ∈ forms, decodeOpcode g.byte = g.instr ∧ exec g.instr s = complete (op g.mode s))
    (hg : f.gives s.cpu.p new (fun m => (.c, c m) :: flagsNZ (new m)))
    (hop : ∀ {m v t}, rmwOp m f s = some (v, t) →
      op m s = some (((t.setA (comb t.cpu.a v)).setNZ (comb t.cpu.a v)).advance m.length)) :
    s.modifyForms forms new (fun m => { s.cpu with a := comb s.cpu.a (new m) })
      (fun m => (.c, c m) :: flagsNZ (comb s.cpu.a (new m))) :=
  modifyForms_of_rmwOp_then (put := fun old => putNZ (comb s.cpu.a (new old))) ha hf hg
    (fun _ _ => flagsAre_putNZ' _ _) (fun _ => sameUpdates_flagsNZ _ _ _) fun _ _ _ _ _ h => hop h

end

/-- LAX, and LXA where it is LAX immediate, load `A` and `X` with the operand byte (R348, R371). -/
theorem readForms_lax {s : State} {forms : List Form} (ha : s.answered)
    (hf : ∀ f ∈ forms, decodeOpcode f.byte = f.instr ∧ exec f.instr s = complete (lax f.mode s)) :
    s.readForms forms (fun v => { s.cpu with a := v, x := v }) flagsNZ := by
  refine readForms_of_result (r := fun v => v) ha hf fun m v u hu hc => ?_
  rw [lax_of_readOp hu, ← hc]; rfl

/-! ### Unstable opcodes -/

theorem unstableNop2_reads {s : State} (ha : s.answered) :
    ∃ d u, s.reads [(s.cpu.pc + 1, d)] u ∧
      complete (unstableNop2 s) = .next { u with cpu := { s.cpu with pc := s.cpu.pc + 2 } } := by
  obtain ⟨d, u, hu⟩ := memRead_complete ha (s.cpu.pc + 1)
  have r := memRead_reads hu
  exact ⟨d, u, r, by rw [unstableNop2, hu, ← r.onlyRead.cpu]; rfl⟩

theorem unstableNop3_reads {s : State} (ha : s.answered) :
    ∃ lo hi u, s.reads [(s.cpu.pc + 1, lo), (s.cpu.pc + 2, hi)] u ∧
      complete (unstableNop3 s) = .next { u with cpu := { s.cpu with pc := s.cpu.pc + 3 } } := by
  obtain ⟨lo, hi, u, hw, r⟩ := operandWord_reads ha
  exact ⟨lo, hi, u, r, by rw [unstableNop3, hw, ← r.onlyRead.cpu]; rfl⟩

/-! ### The halt -/

theorem step_of_halted {s : State} (h : s.sched.halted = true) : step s = locked s := by simp [step, h]

theorem afterExecute_halted (s : State) : (afterExecute s).sched.halted = s.sched.halted := by
  unfold afterExecute
  split <;> rfl

/-- Step 7 of the main loop does nothing in a halted state (60_exceptions R440). -/
theorem afterExecute_of_halted {s : State} (h : s.sched.halted = true) : afterExecute s = s := by
  simp [afterExecute, h]

theorem Dispatched.halted {s u : State} {op : Byte} (h : Dispatched s op u) : u.sched.halted = s.sched.halted := by
  rw [h.spec.2.2]

/-- A step that halts the engine dispatches a JAM, and its end is that of `exec` of the JAM: no command, no sequence, no
poll and no stop touches the halt (10_state R43). -/
theorem step_halts_jam {s t : State} (hs : s.sched.halted = false) (h : step s = .next t)
    (ht : t.sched.halted = true) :
    ∃ op u, Dispatched s op u ∧ isJam (decodeOpcode op) = true ∧ exec (decodeOpcode op) u.clearIr = .next t := by
  have hchanged : t.sched.halted ≠ s.sched.halted := by simp [hs, ht]
  obtain ⟨hh, -⟩ | ⟨-, ⟨c, -, ha⟩ | ⟨-, ⟨-, u, hu, rfl⟩ | ⟨-, ⟨-, rfl⟩ | ⟨-, -, rfl⟩ | ⟨op, u, hd, hx⟩⟩⟩⟩ :=
    step_cases h
  · simp [hs] at hh
  · exact absurd (applyCommand_keeps ha).1 hchanged
  · obtain ⟨w, hw, rfl⟩ := resetSequence_effects hu
    exact absurd (by simp [hw.sched]) hchanged
  · exact absurd (by simp) hchanged
  · exact absurd (by simp [consumePoll]) hchanged
  · obtain ⟨-, rfl⟩ | ⟨-, -, rfl⟩ | ⟨-, -, w, hw, rfl⟩ := hx
    · exact absurd hd.halted hchanged
    · exact absurd hd.halted hchanged
    · rw [afterExecute_halted] at ht
      refine ⟨op, u, hd, ?_, by rw [hw, afterExecute_of_halted ht]⟩
      obtain ⟨hsched, -⟩ := exec_sched hw
      simpa [hsched, hd.halted, hs] using ht

end Sys2Proof.Machine

open Sys2Proof Sys2Proof.Machine

/-- Settles O10: `exec_of_isJam` for the twelve bytes, `locked_spec` for the halted state, and `step_halts_jam` for the
way into it. -/
theorem onlyJamHalts : Obligations.OnlyJamHalts := by
  unfold Obligations.OnlyJamHalts
  refine ⟨?jam, ?stays, ?stands, ?onlyJam⟩
  case jam =>
    intro s b hb
    have hj : isJam (decodeOpcode b) = true := by fin_cases hb <;> rfl
    exact ⟨hj, exec_of_isJam hj s⟩
  case stays =>
    intro s t hs h
    rw [step_of_halted hs] at h
    exact locked_spec h
  case stands =>
    intro s hs hq
    rw [step_of_halted hs, locked, hq]
  case onlyJam =>
    intro s t hs h ht
    obtain ⟨op, u, hd, hj, he⟩ := step_halts_jam hs h ht
    refine ⟨op, u.clearIr, hj, hd.halted.trans hs, he, ?_⟩
    obtain ⟨hi, -, rfl⟩ | ⟨hi, -, p, hp, hf⟩ := hd
    · exact .inl ⟨hi, rfl⟩
    · exact .inr ⟨hi, p, u, hp, hf, rfl⟩

/-- Settles O35: the shift's carry stays, and the new `A` gives `N` and `Z` (`modifyForms_of_shift_then_logic`). -/
theorem shiftAndLogicCombinations : Obligations.ShiftAndLogicCombinations := by
  unfold Obligations.ShiftAndLogicCombinations
  intro s ha
  refine ⟨?slo, ?rla, ?sre⟩
  case slo => exact modifyForms_of_shift_then_logic ha (exec_sloForms s) (aslOp_gives s.cpu.p) slo_of_rmwOp
  case rla => exact modifyForms_of_shift_then_logic ha (exec_rlaForms s) (rolOp_gives s.cpu.p) rla_of_rmwOp
  case sre => exact modifyForms_of_shift_then_logic ha (exec_sreForms s) (lsrOp_gives s.cpu.p) sre_of_rmwOp

/-- Settles O36: ROR leaves `D` and hands its carry on to the adder; INC changes no flag before the subtracter; both
write all four arithmetic flags over those there. -/
theorem shiftAndAddCombinations : Obligations.ShiftAndAddCombinations := by
  unfold Obligations.ShiftAndAddCombinations
  intro s ha
  refine ⟨?rra, ?isc⟩
  case rra =>
    intro r t
    refine modifyForms_of_rmwOp_then (put := fun m => putArith (t m)) ha (exec_rraForms s) (rorOp_gives s.cpu.p)
      (fun m q => flagsAre_arith (t m) q) (fun m => sameUpdates_arith _ _ _ _ _ _) fun m old u q hq h => ?_
    have hd : flagOf q .d = s.flag .d := hq .d
    have hc : flagOf q .c = old.getLsbD 0 := hq .c
    rw [rra_of_rmwOp h, State.flag, State.flag, hd, hc]; rfl
  case isc =>
    intro t
    refine modifyForms_of_rmwOp_then (put := fun m => putArith (t m)) ha (exec_iscForms s) (incSilent_gives s.cpu.p)
      (fun m q => flagsAre_arith (t m) q) (fun m => sameUpdates_append_nil _) fun m old u q hq h => ?_
    have hd : flagOf q .d = s.flag .d := hq .d
    have hc : flagOf q .c = s.flag .c := hq .c
    rw [isc_of_rmwOp h, State.flag, State.flag, hd, hc]; rfl

/-- Settles O37: DEC without flags and then the flags of the compare, which changes no register. -/
theorem decrementAndCompareCombination : Obligations.DecrementAndCompareCombination := by
  unfold Obligations.DecrementAndCompareCombination
  intro s ha
  exact modifyForms_of_rmwOp_then (put := fun m => putCompare s.cpu.a (m - 1)) ha (exec_dcpForms s)
    (decSilent_gives s.cpu.p) (fun m => flagsAre_compare s.cpu.a (m - 1)) (fun _ => sameUpdates_append_nil _)
    fun _ _ _ _ _ => dcp_of_rmwOp

/-- Settles O38: each is `ReadOp`, which changes no register, and then its operation on bytes with its own flags. -/
theorem combinedReads : Obligations.CombinedReads := by
  unfold Obligations.CombinedReads
  intro s ha
  refine ⟨?lax, ?las, ?anc, ?alr, ?sbx⟩
  case lax => exact readForms_lax ha (exec_laxForms s)
  case las =>
    refine readForms_of_one (op := las) .aby ha (List.forall_mem_singleton.mpr ⟨decodeOpcode_opcode .lasAby, rfl, rfl⟩)
      fun v u hu hc => ⟨_, flagsAre_putNZ' (v &&& s.cpu.sp) s.cpu.p, ?_⟩
    rw [las_of_readOp hu, ← hc]; rfl
  case anc =>
    refine readForms_of_one (op := anc) .imm ha (exec_ancForms s)
      fun v u hu hc => ⟨_, flagsAre_ancOp s.cpu.a v s.cpu.p, ?_⟩
    rw [anc_of_readOp hu, ← hc]; rfl
  case alr =>
    refine readForms_of_one (op := alr) .imm ha (List.forall_mem_singleton.mpr ⟨decodeOpcode_opcode .alrImm, rfl, rfl⟩)
      fun v u hu hc => ⟨_, (lsrOp_gives s.cpu.p (s.cpu.a &&& v)).2, ?_⟩
    rw [alr_of_readOp hu, ← hc]; rfl
  case sbx =>
    refine readForms_of_one (op := sbx) .imm ha (List.forall_mem_singleton.mpr ⟨decodeOpcode_opcode .sbxImm, rfl, rfl⟩)
      fun v u hu hc => ⟨_, flagsAre_sbxOp s.cpu.a s.cpu.x v s.cpu.p, ?_⟩
    rw [sbx_of_readOp hu, ← hc]; rfl

/-- Settles O39: with `D` clear by `arrOp_gives`; with `D` set `A` and the four flags are whatever the free values
are. -/
theorem andRotateRight : Obligations.AndRotateRight := by
  unfold Obligations.AndRotateRight
  intro s ha
  refine ⟨?binary, ?decimal⟩
  case binary =>
    intro hd r
    refine readForms_of_one (op := arr) .imm ha (List.forall_mem_singleton.mpr ⟨decodeOpcode_opcode .arrImm, rfl, rfl⟩)
      fun v u hu hc => ⟨_, (arrOp_gives s.cpu.a s.cpu.p v).2, ?_⟩
    have hr : (arrOp s.cpu.a v s.cpu.p).1 = r v := (arrOp_gives s.cpu.a s.cpu.p v).1
    rw [arr_of_readOp_binary hu (by rw [State.flag, hc]; exact hd), hc, hr, ← hc]; rfl
  case decimal =>
    intro hd
    obtain ⟨v, u, hu⟩ := readOp_complete ha .imm
    have hr := readOp_spec hu
    have hc : u.cpu = s.cpu := hr.2.1.cpu
    refine ⟨decodeOpcode_opcode .arrImm, v, u, Config.freeByte u.free, _, _, _, _, _, u.free + 2, hr,
      flagsAre_putFreeNVZC (Config.freeByte (u.free + 1)) s.cpu.p, ?_⟩
    rw [← hc]
    exact congrArg complete (arr_of_readOp_decimal hu (by rw [State.flag, hc]; exact hd))

/-- Settles O41: the operand reads of the two-byte and the three-byte unstable no-op, and LXA by its parameter. -/
theorem unstableOpcodesOnlyFetch : Obligations.UnstableOpcodesOnlyFetch := by
  unfold Obligations.UnstableOpcodesOnlyFetch
  intro s ha
  refine ⟨?two, ?three, decodeOpcode_opcode .lxaImm, ?lxaNop, ?lxaLax⟩
  case two =>
    intro n hn
    obtain ⟨hop, hex⟩ := exec_unstable2 s n hn
    exact ⟨by rw [← hop, decodeOpcode_opcode], hex ▸ unstableNop2_reads ha⟩
  case three =>
    intro n hn
    obtain ⟨hop, hex⟩ := exec_unstable3 s n hn
    exact ⟨by rw [← hop, decodeOpcode_opcode], hex ▸ unstableNop3_reads ha⟩
  case lxaNop => exact fun h => exec_lxa_nop2 h ▸ unstableNop2_reads ha
  case lxaLax =>
    intro h
    refine readForms_lax ha fun f hf => ?_
    obtain rfl := List.mem_singleton.mp hf
    exact ⟨decodeOpcode_opcode .lxaImm, exec_lxa_laxImm h⟩
end

section
/-! The statements about exceptions and the main loop (60_exceptions). What every step can do is `step_cases`; here is
its converse for the points a statement begins at (`step_of_resetting`, `step_of_idle`, `step_of_held`,
`step_of_halted_query`), and what a step does to the run mode (`applyCommand_runMode`, `afterExecute_runMode`) and to the
trace (`step_traced`). -/

namespace Sys2Proof.Machine

open Sys2Proof

/-! ### The points of the main loop -/

theorem complete_eq_next_iff {r : Option State} {t : State} : complete r = .next t ↔ r = some t := by
  cases r <;> simp [complete]

theorem nextCommand_of_host_nil {s : State} (h : s.host = []) : nextCommand s = none := by simp [nextCommand, h]

/-- An accepted command is acceptable in the state it is accepted in (60_exceptions R446). -/
theorem acceptedAt_of_nextCommand {s : State} {c : Command} (h : nextCommand s = some c) : c.acceptedAt s = true := by
  unfold nextCommand at h
  split at h
  · split at h
    · rename_i ha
      rwa [← Option.some.inj h]
    · cases h
  · cases h

theorem dropSlot_of_host {s : State} {slot : Option Command} {rest : List (Option Command)}
    (hq : s.host = slot :: rest) : s.dropSlot = { s with host := rest } := by
  simp [State.dropSlot, hq]

theorem waiting_of_atHold {s : State} (h : atHold s = true) : s.sched.runMode = .waiting := by
  simp only [atHold, Bool.and_eq_true, decide_eq_true_eq] at h
  exact h.1

section
variable {s : State} {rest : List (Option Command)} (hh : s.sched.halted = true)
include hh

/-- In the locked state a query is answered and uses up its slot (60_exceptions R448). -/
theorem step_of_halted_query {c : Command} (hq : s.host = some c :: rest) (hc : c.isQuery = true) :
    step s = complete (applyCommand c { s with host := rest }) := by
  rw [step_of_halted hh, locked, hq]
  simp only [hc, if_true, dropSlot_of_host hq]

/-- In the locked state any other slot is used up without any effect (60_exceptions R448, log 10). -/
theorem step_of_halted_other {slot : Option Command} (hq : s.host = slot :: rest)
    (hc : ∀ c, slot = some c → c.isQuery = false) : step s = .next { s with host := rest } := by
  rw [step_of_halted hh, locked, hq]
  cases slot with
  | none => exact congrArg _ (dropSlot_of_host hq)
  | some c => simp only [hc c rfl, Bool.false_eq_true, if_false, dropSlot_of_host hq]

end

section
variable {s : State} (hh : s.sched.halted = false)
include hh

/-- With no command accepted and no reset pending a step is one turn of the loop (60_exceptions R440). -/
theorem step_eq_turn (hc : nextCommand s = none) (hm : s.sched.runMode ≠ .resetting) : step s = turn s := by
  simp [step, hh, hc, hm]

/-- With no command accepted a pending reset is what a step runs (70_reset_and_hazards R461). -/
theorem step_of_resetting (hc : nextCommand s = none) (hm : s.sched.runMode = .resetting) :
    step s = complete (resetTurn (passSlot s)) := by
  simp [step, hh, hc, hm]

/-- At a boundary with no command and no request a step is the fetch and what the fetched opcode meets (60_exceptions
R440). -/
theorem step_of_idle (hq : s.host = []) (hm : s.sched.runMode ≠ .resetting) (hi : s.sched.ir = none)
    (hr : resetTaken s = false) (hn : nmiEdge s = false) (hirq : irqTaken s = false) :
    step s = fetchAndDispatch (consumePoll s) := by
  rw [step_eq_turn hh (nextCommand_of_host_nil hq) hm]
  simp [turn, hi, passSlot_nil hq, boundary, poll_idle hr hn hirq, hr]

/-- With no command and the opcode held, outside `Waiting` a step is what that opcode meets, with no poll and no fetch
(60_exceptions R440). -/
theorem step_of_held {op : Byte} (hq : s.host = []) (hm : s.sched.runMode ≠ .resetting) (hi : s.sched.ir = some op)
    (hw : s.sched.runMode ≠ .waiting) : step s = dispatchFetched op s := by
  rw [step_eq_turn hh (nextCommand_of_host_nil hq) hm]
  simp [turn, hi, atHold, hw, passSlot_nil hq]

end

theorem dispatchFetched_of_stop {s : State} (op : Byte) (h : mustStop s = true) :
    dispatchFetched op s = .next (stopEngine s) := by
  simp [dispatchFetched, afterFetch, h]

theorem dispatchFetched_of_execute {s : State} (op : Byte) (h : mustStop s = false) (hw : s.sched.runMode ≠ .waiting) :
    dispatchFetched op s = executeOpcode op s := by
  simp [dispatchFetched, afterFetch, h, hw]

/-- Stops are for `Running`, at a stop condition (60_exceptions R443). -/
theorem mustStop_iff (s : State) : mustStop s = true ↔ s.sched.runMode = .running ∧ s.stopDue := by
  rw [mustStop, Bool.and_eq_true, decide_eq_true_eq, stopCondition_iff]

/-- The stop condition looks at `PC` and four fields of the scheduler. -/
theorem stopDue_congr {s t : State} (hpc : t.cpu.pc = s.cpu.pc) (hb : t.sched.breakpoint = s.sched.breakpoint)
    (hr : t.sched.runTo = s.sched.runTo) (hf : t.sched.fence = s.sched.fence)
    (hc : t.sched.cancelRequested = s.sched.cancelRequested) : t.stopDue ↔ s.stopDue := by
  simp only [State.stopDue, hpc, hb, hr, hf, hc]

/-! ### The fetch -/

/-- The trace point: where the trace is on, one pair and the counter one more (60_exceptions R445). -/
theorem traceFetch_eq (s : State) : traceFetch s = { s with
    sched := { s.sched with traceSeq := if s.sched.traceEnable then s.sched.traceSeq + 1 else s.sched.traceSeq }
    out := { s.out with
      trace := if s.sched.traceEnable then (s.sched.traceSeq, s.cpu.pc) :: s.out.trace else s.out.trace } } := by
  unfold traceFetch
  split <;> rfl

theorem fetchOpcode_of_memFetch {s u : State} {op : Byte} (h : memFetch s.cpu.pc s = some (op, u)) :
    fetchOpcode s = some (op, traceFetch (u.setSched { u.sched with ir := some op })) := by
  simp only [fetchOpcode, h, Option.bind_eq_bind, Option.bind_some]

/-- What the fetch leaves: the registers, both memories, the parameters, and of the scheduler all but `ir` and the
counter of the trace. -/
theorem fetchOpcode_frame {s t : State} {op : Byte} (h : fetchOpcode s = some (op, t)) :
    t.cpu = s.cpu ∧ t.bus.shadow = s.bus.shadow ∧ t.bus.partner.mem = s.bus.partner.mem ∧
      t.sched = { s.sched with ir := some op, traceSeq := t.sched.traceSeq } := by
  obtain ⟨u, hu, hcpu, hbus, -, -, -, -, hsched, -⟩ := fetchOpcode_spec h
  have hr := (memFetch_readsOnly hu).1
  exact ⟨hcpu.trans hr.cpu, by rw [hbus, hr.shadow], by rw [hbus, hr.partnerMem], by rw [hsched, hr.sched]⟩

/-- Dropping the opcode just fetched leaves the traced state with none held. -/
theorem traceFetch_clearIr {s : State} (h : s.sched.ir = none) (op : Byte) :
    (traceFetch (s.setSched { s.sched with ir := some op })).clearIr = traceFetch s := by
  simp only [traceFetch_eq, State.clearIr, State.setSched, ← h]

/-- At a boundary where nothing stops it the fetched opcode is executed (60_exceptions R440). -/
theorem fetchAndDispatch_of_execute {s u : State} {op : Byte} (hf : memFetch s.cpu.pc s = some (op, u))
    (hw : s.sched.runMode ≠ .waiting) (hstop : s.sched.runMode = .running → stopCondition s = false) :
    fetchAndDispatch s = executeOpcode op (traceFetch (u.setSched { u.sched with ir := some op })) := by
  have hfetch := fetchOpcode_of_memFetch hf
  obtain ⟨hcpu, -, -, hsched⟩ := fetchOpcode_frame hfetch
  rw [fetchAndDispatch, hfetch]
  refine dispatchFetched_of_execute op ?_ (by rw [hsched]; exact hw)
  rw [← Bool.not_eq_true, mustStop_iff, stopDue_congr (s := s) (by rw [hcpu]), ← stopCondition_iff]
  · rw [hsched]
    exact fun ⟨hm, hd⟩ => absurd (hstop hm) (by simp [hd])
  all_goals rw [hsched]

/-! ### The run mode -/

/-- The commands that change the run mode, each to its own mode (60_exceptions R441, R446). -/
theorem applyCommand_runMode {c : Command} {s t : State} (h : applyCommand c s = some t)
    (hne : t.sched.runMode ≠ s.sched.runMode) :
    (c = .step ∧ t.sched.runMode = .singleStep) ∨
      ((c = .run ∨ ∃ a, c = .runTo a) ∧ t.sched.runMode = .running) ∨
      (c = .reset ∧ t.sched.runMode = .resetting) ∨ c = .setRunMode t.sched.runMode := by
  cases c with
  | step => rw [← Option.some.inj h]; exact .inl ⟨rfl, rfl⟩
  | run => rw [← Option.some.inj h]; exact .inr (.inl ⟨.inl rfl, rfl⟩)
  | runTo a => rw [← Option.some.inj h]; exact .inr (.inl ⟨.inr ⟨a, rfl⟩, rfl⟩)
  | reset => rw [← Option.some.inj h]; exact .inr (.inr (.inl ⟨rfl, rfl⟩))
  | setRunMode m => rw [← Option.some.inj h]; exact .inr (.inr (.inr rfl))
  | readByte a =>
    simp only [applyCommand, Option.bind_eq_bind, Option.bind_eq_some_iff, Prod.exists, Option.some.injEq] at h
    obtain ⟨v, u, hu, rfl⟩ := h
    exact absurd (by rw [State.reply_sched, (memRead_didRead hu).1.1.sched]) hne
  | setReg r v => rw [← Option.some.inj h] at hne; cases r <;> exact absurd rfl hne
  | _ => rw [← Option.some.inj h] at hne; exact absurd rfl hne

/-- Step 7 of the main loop changes the run mode in `SingleStep` only, to `Waiting` (60_exceptions R440, R441). -/
theorem afterExecute_runMode {s : State} (h : (afterExecute s).sched.runMode ≠ s.sched.runMode) :
    s.sched.runMode = .singleStep ∧ (afterExecute s).sched.runMode = .waiting := by
  by_cases hc : s.sched.halted = false ∧ s.sched.runMode = .singleStep
  · rw [afterExecute, if_pos hc]
    exact ⟨hc.2, rfl⟩
  · rw [afterExecute, if_neg hc] at h
    exact absurd rfl h

theorem Dispatched.runMode {s u : State} {op : Byte} (h : Dispatched s op u) :
    u.sched.runMode = s.sched.runMode := by
  rw [h.spec.2.2]

/-! ### The trace -/

/-- From `s` to `t` no opcode is fetched, no pair is emitted, and the counter stays (60_exceptions R445). -/
def Untraced (s t : State) : Prop :=
  (∃ l, t.bus.log = l ++ s.bus.log ∧ l.filter Access.isFetch = []) ∧ t.out.trace = s.out.trace ∧
    t.sched.traceSeq = s.sched.traceSeq

/-- From `s` to `t` one opcode is fetched, at `pc`; with the trace on in `s` its pair is emitted and the counter is one
more (60_exceptions R445). -/
def TracedAt (pc : Addr) (s t : State) : Prop :=
  (∃ l onBus sync, t.bus.log = l ++ s.bus.log ∧ l.filter Access.isFetch = [.read pc true onBus sync]) ∧
    if s.sched.traceEnable = true
    then t.out.trace = (s.sched.traceSeq, pc) :: s.out.trace ∧ t.sched.traceSeq = s.sched.traceSeq + 1
    else t.out.trace = s.out.trace ∧ t.sched.traceSeq = s.sched.traceSeq

theorem Untraced.of_eq {s t : State} (hb : t.bus = s.bus) (ho : t.out = s.out)
    (hs : t.sched.traceSeq = s.sched.traceSeq) : Untraced s t :=
  ⟨⟨[], by rw [hb]; rfl, rfl⟩, by rw [ho], hs⟩

theorem Untraced.trans {s t u : State} (h1 : Untraced s t) (h2 : Untraced t u) : Untraced s u := by
  obtain ⟨⟨l1, e1, f1⟩, o1, q1⟩ := h1
  obtain ⟨⟨l2, e2, f2⟩, o2, q2⟩ := h2
  exact ⟨⟨l2 ++ l1, by rw [e2, e1, List.append_assoc], by rw [List.filter_append, f1, f2]; rfl⟩, o2.trans o1,
    q2.trans q1⟩

/-- A fetch after something that fetches nothing and leaves the trace switched as it is. -/
theorem Untraced.trans_tracedAt {pc : Addr} {s t u : State} (h1 : Untraced s t)
    (he : t.sched.traceEnable = s.sched.traceEnable) (h2 : TracedAt pc t u) : TracedAt pc s u := by
  obtain ⟨⟨l1, e1, f1⟩, o1, q1⟩ := h1
  obtain ⟨⟨l2, b, y, e2, f2⟩, ht⟩ := h2
  rw [he, o1, q1] at ht
  exact ⟨⟨l2 ++ l1, b, y, by rw [e2, e1, List.append_assoc], by rw [List.filter_append, f1, f2]; rfl⟩, ht⟩

/-- Something that fetches nothing after a fetch. -/
theorem TracedAt.trans_untraced {pc : Addr} {s t u : State} (h1 : TracedAt pc s t) (h2 : Untraced t u) :
    TracedAt pc s u := by
  obtain ⟨⟨l1, b, y, e1, f1⟩, ht⟩ := h1
  obtain ⟨⟨l2, e2, f2⟩, o2, q2⟩ := h2
  rw [← o2, ← q2] at ht
  exact ⟨⟨l2 ++ l1, b, y, by rw [e2, e1, List.append_assoc], by rw [List.filter_append, f1, f2]; rfl⟩, ht⟩

theorem passSlot_untraced (s : State) : Untraced s (passSlot s) :=
  .of_eq (passSlot_bus s) (passSlot_out s) (by rw [passSlot_sched])

theorem dropSlot_untraced (s : State) : Untraced s s.dropSlot := .of_eq rfl rfl rfl

theorem stopEngine_untraced (s : State) : Untraced s (stopEngine s) := .of_eq rfl rfl rfl

theorem clearIr_untraced (s : State) : Untraced s s.clearIr := .of_eq rfl rfl rfl

theorem setRunMode_untraced (s : State) (m : RunMode) : Untraced s (s.setRunMode m) := .of_eq rfl rfl rfl

theorem afterExecute_untraced (s : State) : Untraced s (afterExecute s) := by
  unfold afterExecute
  split
  · exact setRunMode_untraced s .waiting
  · exact .of_eq rfl rfl rfl

theorem locked_untraced {s t : State} (h : locked s = .next t) : Untraced s t := by
  rw [locked_spec h]
  exact ⟨⟨[], rfl, rfl⟩, rfl, rfl⟩

theorem applyCommand_untraced {c : Command} {s t : State} (h : applyCommand c s = some t) : Untraced s t := by
  obtain ⟨-, hseq, hout, hlog⟩ := applyCommand_keeps h
  exact ⟨hlog, hout, hseq⟩

theorem Effects.untraced {s t : State} (h : Effects s t) : Untraced s t :=
  ⟨h.noFetch, by rw [h.out], by rw [h.sched]⟩

theorem resetSequence_untraced {s t : State} (h : resetSequence s = some t) : Untraced s t := by
  obtain ⟨u, hu, rfl⟩ := resetSequence_effects h
  exact hu.untraced.trans (clearIr_untraced u)

theorem exec_untraced {i : Instr} {s t : State} (h : exec i s = .next t) : Untraced s t := by
  rcases exec_effects i s with ⟨-, he⟩ | ⟨-, r, hg, he⟩
  · rw [he] at h
    rw [← Host.Outcome.next.inj h]
    exact .of_eq rfl rfl rfl
  · rw [he, complete_eq_next_iff] at h
    exact (hg.2 t h).untraced

/-- A poll that does not take RESET fetches nothing and leaves the trace as it is. -/
theorem poll_untraced {s t : State} (h : poll s = some t) (hr : resetTaken s = false) :
    Untraced s t ∧ t.sched.traceEnable = s.sched.traceEnable := by
  obtain ⟨hs, -, -, -, ho⟩ := poll_sched h hr
  exact ⟨⟨poll_noFetch h, by rw [ho], by rw [hs]⟩, by rw [hs]⟩

/-- The fetch of the main loop is traced at `PC`. -/
theorem fetchOpcode_tracedAt {s t : State} {op : Byte} (h : fetchOpcode s = some (op, t)) :
    TracedAt s.cpu.pc s t := by
  obtain ⟨u, hu, -, hbus, -, -, -, -, hsched, hout⟩ := fetchOpcode_spec h
  obtain ⟨hr, -, onBus, sync, hlog⟩ := memFetch_readsOnly hu
  refine ⟨⟨[.read s.cpu.pc true onBus sync], onBus, sync, by rw [hbus, hlog]; rfl, rfl⟩, ?_⟩
  rw [hsched, hout, hr.sched, hr.out, hr.cpu]
  split_ifs with he <;> exact ⟨rfl, rfl⟩

/-- Up to the dispatch a step fetches its opcode once, or not at all where the opcode is held from before. -/
theorem Dispatched.traced {s u : State} {op : Byte} (h : Dispatched s op u) :
    Untraced s u ∨ s.sched.ir = none ∧ ∃ pc, TracedAt pc s u := by
  obtain ⟨-, -, rfl⟩ | ⟨hi, hr, p, hp, hf⟩ := h
  · exact .inl (passSlot_untraced s)
  · obtain ⟨hu, he⟩ := poll_untraced hp (by simpa using hr)
    rw [passSlot_sched] at he
    exact .inr ⟨hi, p.cpu.pc, ((passSlot_untraced s).trans hu).trans_tracedAt he (fetchOpcode_tracedAt hf)⟩

/-- EVERY STEP fetches an opcode once, and only where none was held, or fetches none. -/
theorem step_traced {s t : State} (h : step s = .next t) :
    Untraced s t ∨ s.sched.ir = none ∧ ∃ pc, TracedAt pc s t := by
  obtain ⟨-, hl⟩ | ⟨-, ⟨c, -, ha⟩ | ⟨-, ⟨-, u, hu, rfl⟩ | ⟨-, ⟨-, rfl⟩ | ⟨-, -, rfl⟩ | ⟨op, u, hd, hx⟩⟩⟩⟩ :=
    step_cases h
  · exact .inl (locked_untraced hl)
  · exact .inl ((dropSlot_untraced s).trans (applyCommand_untraced ha))
  · exact .inl ((passSlot_untraced s).trans ((resetSequence_untraced hu).trans (setRunMode_untraced u _)))
  · exact .inl (passSlot_untraced s)
  · exact .inl ((passSlot_untraced s).trans (.of_eq rfl rfl rfl))
  · have htail : Untraced u t := by
      obtain ⟨-, rfl⟩ | ⟨-, -, rfl⟩ | ⟨-, -, w, hw, rfl⟩ := hx
      · exact stopEngine_untraced u
      · exact .of_eq rfl rfl rfl
      · exact (clearIr_untraced u).trans ((exec_untraced hw).trans (afterExecute_untraced w))
    exact hd.traced.imp (·.trans htail) fun ⟨hi, pc, hu⟩ => ⟨hi, pc, hu.trans_untraced htail⟩

/-! ### The reset sequence -/

/-- The reset sequence: the dummy reads, the reads of the vector, and what is put into the registers before four of them
are left open (60_exceptions R412, 10_state R47). -/
theorem resetSequence_reads {s : State} (ha : s.answered) :
    ∃ ds lo hi u, ds.map Prod.fst = s.cfg.resetDummies.map (resetReadAddr s) ∧
      s.reads (ds ++ [(s.cfg.vecReset, lo), (s.cfg.vecReset + 1, hi)]) u ∧
      resetSequence s = some (forgetRegisters { u with
        cpu := { s.cpu with p := flagsFrom s.cfg.resetFlags, pc := cat hi lo }
        sched := { s.sched with ir := none } }) := by
  obtain ⟨ds, u1, hds, r1, h1⟩ := readAll_reads ha (s.cfg.resetDummies.map (resetReadAddr s))
  obtain ⟨lo, u2, h2, r2⟩ := r1.more ha s.cfg.vecReset
  obtain ⟨hi, u, h3, r3⟩ := r2.more ha (s.cfg.vecReset + 1)
  rw [List.append_assoc] at r3
  have hw : readWord s.cfg.vecReset u1 = some (cat hi lo, u) := by
    simp only [readWord, h2, h3, Option.bind_eq_bind, Option.bind_some]
  refine ⟨ds, lo, hi, u, hds, r3, ?_⟩
  simp only [resetSequence, h1, hw, Option.bind_eq_bind, Option.bind_some]
  rw [← r3.onlyRead.cpu, ← r3.onlyRead.sched, ← r3.onlyRead.cfg]
  rfl

end Sys2Proof.Machine

open Sys2Proof Sys2Proof.Machine

/-- Settles O9: the cases of `step_cases`; the command, the stop and step 7 are the places that write the run mode
besides the two resets. -/
theorem runModeChangesOnlyAsListed : Obligations.RunModeChangesOnlyAsListed := by
  unfold Obligations.RunModeChangesOnlyAsListed
  refine ⟨?listed, ?setRunMode⟩
  case setRunMode =>
    intro s m rest hh hq
    rw [step_of_accepted hh hq rfl]
    rfl
  case listed =>
    intro s t h hne
    obtain ⟨-, hl⟩ | ⟨-, ⟨c, hc, ha⟩ | ⟨-, ⟨hm, u, hu, rfl⟩ | ⟨-, ⟨-, rfl⟩ | ⟨-, hr, rfl⟩ | ⟨op, u, hd, hx⟩⟩⟩⟩ :=
      step_cases h
    · rw [locked_spec hl] at hne
      exact absurd rfl hne
    · have hacc := acceptedAt_of_nextCommand hc
      obtain ⟨rfl, ht⟩ | ⟨rfl | ⟨a, rfl⟩, ht⟩ | ⟨rfl, ht⟩ | rfl := applyCommand_runMode ha hne
      · exact .inr (.inl ⟨waiting_of_atHold hacc, hc, ht⟩)
      · exact .inr (.inr (.inl ⟨waiting_of_atHold hacc, .inl hc, ht⟩))
      · exact .inr (.inr (.inl ⟨waiting_of_atHold hacc, .inr ⟨a, hc⟩, ht⟩))
      · exact .inr (.inr (.inr (.inl ⟨waiting_of_atHold hacc, hc, ht⟩)))
      · exact .inr (.inr (.inr (.inr (.inr (.inr (.inr hc))))))
    · obtain ⟨w, hw, rfl⟩ := resetSequence_effects hu
      have hcfg : w.cfg = s.cfg := by rw [hw.cfg, passSlot_cfg]
      exact .inl ⟨hm, congrArg Config.modeAfterReset hcfg⟩
    · exact absurd (by rw [passSlot_sched]) hne
    · rw [resetTaken, Bool.and_eq_true, decide_eq_true_eq] at hr
      exact .inr (.inr (.inr (.inr (.inr (.inl ⟨hr.1, rfl, hr.2⟩)))))
    · obtain ⟨-, hir, hu⟩ := hd.spec
      obtain ⟨hstop, rfl⟩ | ⟨-, -, rfl⟩ | ⟨-, -, w, hw, rfl⟩ := hx
      · obtain ⟨hrun, hdue⟩ := (mustStop_iff u).mp hstop
        rw [State.stopDue, hu] at hdue
        exact .inr (.inr (.inr (.inr (.inl ⟨hd.runMode.symm.trans hrun, rfl, by simp [stopEngine, hir], hdue⟩))))
      · exact absurd hd.runMode hne
      · have hw' : w.sched.runMode = s.sched.runMode := by rw [(exec_sched hw).1, ← hd.runMode]; rfl
        rw [← hw'] at hne ⊢
        exact .inr (.inr (.inr (.inr (.inr (.inr (.inl (afterExecute_runMode hne)))))))

/-- Settles O13: `exec_effects` says that an instruction is a JAM or an operation that completes, and `Effects` keep
all that the statement lists. -/
theorem everyInstructionCompletes : Obligations.EveryInstructionCompletes := by
  unfold Obligations.EveryInstructionCompletes
  intro i s ha
  obtain ⟨hj, he⟩ | ⟨hj, r, hg, he⟩ := exec_effects i s
  · exact ⟨_, he, rfl, rfl, by simp [hj], rfl, rfl, rfl⟩
  · obtain ⟨t, rfl⟩ := hg.1 ha
    have ht := hg.2 t rfl
    exact ⟨t, he, ht.lines, ht.cfg, by simp [hj, ht.sched], ht.polls, ht.host, ht.out⟩

/-- Settles O51: `interrupt_spec`, with the two flags bytes read flag by flag. -/
theorem interruptEntry : Obligations.InterruptEntry := by
  unfold Obligations.InterruptEntry
  intro s vec ha
  obtain ⟨d, d', u, t, lo, hi, w, hread, hstored, hvec, he⟩ := interrupt_spec ha vec
  exact ⟨d, d', u, _, t, lo, hi, w, _, hread, flagsAre_putFlag .b false s.cpu.p, hstored, hvec,
    flagsAre_putFlag_putFlag (by decide) false true s.cpu.p, he⟩

/-- Settles O53: the nested choice of `poll`, each request under its own condition. -/
theorem pollTakesOneRequestByPriority : Obligations.PollTakesOneRequestByPriority := by
  unfold Obligations.PollTakesOneRequestByPriority
  intro s ha
  have hreset : resetTaken s = true ↔ s.sched.runMode = .running ∧ (nextLevels s).resetL = true := by
    rw [resetTaken, Bool.and_eq_true, decide_eq_true_eq]
  have hnmi : nmiEdge s = true ↔ (nextLevels s).nmiL = true ∧ s.sched.nmiPrev = false := by
    rw [nmiEdge, Bool.and_eq_true, Bool.not_eq_true']
  have hirq : irqTaken s = true ↔ (nextLevels s).irqL = true ∧ s.flag .i = false := by
    rw [irqTaken, Bool.and_eq_true, Bool.not_eq_true']
  refine ⟨?completes, fun hm hl => poll_reset (hreset.mpr ⟨hm, hl⟩), fun hr => ?_⟩
  case completes =>
    obtain ⟨t, ht⟩ := poll_complete ha
    refine ⟨t, ht, ?_⟩
    by_cases hr : resetTaken s = true
    · rw [poll_reset hr] at ht
      rw [← Option.some.inj ht]
      exact ⟨rfl, rfl⟩
    · obtain ⟨hs, -, -, hp, -⟩ := poll_sched ht (by simpa using hr)
      exact ⟨by rw [hs], hp⟩
  rw [← hreset] at hr
  refine ⟨fun hl hp => ?nmi, fun hn => ⟨fun hl hp => ?irq, fun hi => ?none⟩⟩
  case nmi => rw [poll, if_neg hr, if_pos (hnmi.mpr ⟨hl, hp⟩)]; rfl
  all_goals rw [← hnmi] at hn
  case irq => rw [poll, if_neg hr, if_neg hn, if_pos (hirq.mpr ⟨hl, hp⟩)]; rfl
  case none =>
    rw [← hirq] at hi
    exact poll_idle (by simpa using hr) (by simpa using hn) (by simpa using hi)

/-- Settles O54: `resetSequence_reads` in the state without the host's slot, which has the same registers and
parameters; with bit 5 set, loading `RESET_FLAGS` stores it as it is. -/
theorem resetSequenceLoadsTheVector : Obligations.ResetSequenceLoadsTheVector := by
  unfold Obligations.ResetSequenceLoadsTheVector
  intro s hh hm hc ha h5
  have ha' : (passSlot s).answered := by rw [State.answered, passSlot_bus]; exact ha
  have haddr : resetReadAddr (passSlot s) = resetReadAddr s := by
    funext r
    cases r <;> simp [resetReadAddr]
  obtain ⟨ds, lo, hi, u, hds, hr, he⟩ := resetSequence_reads ha'
  simp only [passSlot_cfg, passSlot_sched, haddr, flagsFrom_of_bit5 h5] at hds hr he
  have hcfg : u.cfg = s.cfg := by rw [hr.onlyRead.cfg, passSlot_cfg]
  refine ⟨ds, lo, hi, u, Config.freeByte u.free, Config.freeByte (u.free + 1), Config.freeByte (u.free + 2),
    Config.freeByte (u.free + 3), u.free + 4, hds, hr, ?_⟩
  rw [step_of_resetting hh hc hm, resetTurn, he, ← hcfg]
  rfl

/-- Settles O57: after the fetch, and with the opcode held, the stop condition is that of the state the step began in,
and `stopEngine` writes three fields of the scheduler. -/
theorem stopConditionHoldsBeforeExecution : Obligations.StopConditionHoldsBeforeExecution := by
  unfold Obligations.StopConditionHoldsBeforeExecution
  refine ⟨?fetched, ?run, ?held⟩
  case fetched =>
    intro s hh hm hi hq hr hn hirq ha hdue
    obtain ⟨op, u, hf⟩ := fetchOpcode_complete (s := consumePoll s) ha
    obtain ⟨hcpu, hshadow, hmem, hsched⟩ := fetchOpcode_frame hf
    have hstop : mustStop u = true := by
      rw [mustStop_iff, stopDue_congr (s := s)]
      · rw [hsched]; exact ⟨hm, hdue⟩
      · rw [hcpu]; rfl
      all_goals rw [hsched]; rfl
    refine ⟨stopEngine u, ?step, rfl, ?ir, hcpu, hshadow, hmem, rfl, rfl, ?breakpoint, ?fence⟩
    case step =>
      rw [step_of_idle hh hq (by simp [hm]) hi hr hn hirq, fetchAndDispatch, hf]
      exact dispatchFetched_of_stop op hstop
    all_goals rw [stopEngine, hsched]; rfl
  case run =>
    intro s op rest hh hm hi hq
    rw [step_of_accepted hh hq (by simp [Command.acceptedAt, atHold, hm, hi])]
    rfl
  case held =>
    intro s op hh hm hi hq hdue
    rw [step_of_held hh hq (by simp [hm]) hi (by simp [hm])]
    exact dispatchFetched_of_stop op ((mustStop_iff s).mpr ⟨hm, hdue⟩)

/-- Settles O58: `step_traced`. -/
theorem everyFetchIsTracedOnce : Obligations.EveryFetchIsTracedOnce := by
  unfold Obligations.EveryFetchIsTracedOnce
  intro s t h
  obtain ⟨⟨l, hlog, hl⟩, hout, hseq⟩ | ⟨hi, pc, ⟨l, onBus, sync, hlog, hl⟩, ht⟩ := step_traced h
  · exact ⟨l, hlog, .inl ⟨hl, hout, hseq⟩⟩
  · exact ⟨l, hlog, .inr ⟨pc, onBus, sync, hl, hi, ht⟩⟩

/-- Settles O60: in a halted state a query is answered and every other slot has no effect; elsewhere the query of
`halted` is acceptable at every boundary. -/
theorem hostReadsTheLockedState : Obligations.HostReadsTheLockedState := by
  unfold Obligations.HostReadsTheLockedState
  refine ⟨?locked, ?running⟩
  case locked =>
    intro s slot rest hh hq
    cases slot with
    | none => exact step_of_halted_other hh hq (by simp)
    | some c =>
      cases c with
      | getHalted =>
        rw [step_of_halted_query hh hq rfl]
        simp [applyCommand, complete, State.reply, hh]
      | getReg r => rw [step_of_halted_query hh hq rfl]; cases r <;> rfl
      | lastAccessInternal => exact step_of_halted_query hh hq rfl
      | getAccel => exact step_of_halted_query hh hq rfl
      | _ => exact step_of_halted_other hh hq fun _ h => by cases h; rfl
  case running =>
    intro s rest hh hq
    rw [step_of_accepted hh hq rfl]
    simp [applyCommand, complete, State.reply, hh]

/-- Settles O55: the step is the fetch and, with no stop, the execution; the traced fetch without the held opcode is the
state the statement names, and the run mode at the end is that of the beginning. -/
theorem stepRunsTheDecodedInstruction : Obligations.StepRunsTheDecodedInstruction := by
  unfold Obligations.StepRunsTheDecodedInstruction
  intro s u op more c rest hh hm hi hq hr hn hirq hstop hf hdec v
  have hwait : s.sched.runMode ≠ .waiting := by rcases hm with h | h <;> simp [h]
  have hres : s.sched.runMode ≠ .resetting := by rcases hm with h | h <;> simp [h]
  obtain ⟨hread, hview, -⟩ := memFetch_readsOnly hf
  have hsched : u.sched = (consumePoll s).sched := hread.sched
  have hrunMode : u.sched.runMode = s.sched.runMode := by rw [hsched]; rfl
  have hout : u.out = s.out := hread.out
  have hcpu : u.cpu = s.cpu := hread.cpu
  have hv : traceFetch u = v := by simp only [v, traceFetch_eq, hsched, hout, hcpu]; rfl
  refine ⟨hview, hcpu, ?_⟩
  rw [step_of_idle hh hq hres hi hr hn hirq, fetchAndDispatch_of_execute hf hwait hstop, executeOpcode,
    traceFetch_clearIr (by rw [hsched]; exact hi), hv, ((decode_cons_ok_iff op more c rest).mp hdec).1]
  cases he : exec (decodeOpcode op) v with
  | fault r => rfl
  | refused r => rfl
  | next t =>
    have hmode : t.sched.runMode = s.sched.runMode := by rw [(exec_sched he).1]; exact hrunMode
    dsimp only
    split_ifs with hs
    · rw [afterExecute, if_pos ⟨hs.2, hmode.trans hs.1⟩]; rfl
    · rw [afterExecute, if_neg fun h => hs ⟨hmode.symm.trans h.2, h.1⟩]
end

section
/-! The statements about reset and hazards (70_reset_and_hazards): the independence of architecture from acceleration,
and the opcode fetched before a host write. The simulation of every operation and every instruction is that of
`Agree`; here it is carried through the points of the main loop. -/

namespace Sys2Proof.Machine

open Sys2Proof

/-! ### Outcomes that agree -/

/-- Both outcomes are the same fault, or states that agree. -/
def SimOutcome (o o' : Host.Outcome State Fault Refusal) : Prop :=
  (∃ t b, o = .next t ∧ o' = .next { t with bus := b } ∧ Agree t b) ∨ ∃ r, o = .fault r ∧ o' = .fault r

theorem simOutcome_next {t : State} {b : Bus} (h : Agree t b) : SimOutcome (.next t) (.next { t with bus := b }) :=
  .inl ⟨t, b, rfl, rfl, h⟩

theorem simOutcome_fault (r : Fault) : SimOutcome (.fault r) (.fault r) := .inr ⟨r, rfl, rfl⟩

theorem simOutcome_complete {r r' : Option State} (h : SimAt r r') : SimOutcome (complete r) (complete r') := by
  obtain ⟨t, b, rfl, rfl, h⟩ := h
  exact simOutcome_next h

/-! ### The points of the main loop in two states that agree -/

section
variable {s : State} {b : Bus}

/-- What follows the execution looks at the scheduler and writes nothing else (60_exceptions R440). -/
theorem afterExecute_sim (h : Agree s b) :
    SimOutcome (.next (afterExecute s)) (.next (afterExecute { s with bus := b })) := by
  unfold afterExecute
  dsimp only
  split_ifs
  · exact simOutcome_next (t := s.setRunMode .waiting) (h.book rfl rfl rfl)
  · exact simOutcome_next h

theorem executeOpcode_sim (h : Agree s b) (op : Byte) :
    SimOutcome (executeOpcode op s) (executeOpcode op { s with bus := b }) := by
  have hclear : Agree s.clearIr b := h.book rfl rfl rfl
  obtain ⟨r, r', ⟨t, b', rfl, rfl, ht⟩, he, he'⟩ := exec_sim hclear (decodeOpcode op)
  have he'' : exec (decodeOpcode op) ({ s with bus := b } : State).clearIr = .next { t with bus := b' } := he'
  rw [executeOpcode, he, executeOpcode, he'']
  exact afterExecute_sim ht

/-- The stop check and the hold look at `PC` and the scheduler only (60_exceptions R440, R443). -/
theorem dispatchFetched_sim (h : Agree s b) (op : Byte) :
    SimOutcome (dispatchFetched op s) (dispatchFetched op { s with bus := b }) := by
  have hafter : afterFetch { s with bus := b } = afterFetch s := rfl
  rw [dispatchFetched, dispatchFetched, hafter]
  split
  · exact simOutcome_next (t := stopEngine s) (h.book rfl rfl rfl)
  · exact simOutcome_next h
  · exact executeOpcode_sim h op

theorem fetchAndDispatch_sim (h : Agree s b) :
    SimOutcome (fetchAndDispatch s) (fetchAndDispatch { s with bus := b }) := by
  obtain ⟨op, t, b', hf, hf', ht⟩ := fetchOpcode_sim h
  rw [fetchAndDispatch, hf, fetchAndDispatch, hf']
  exact dispatchFetched_sim ht op

theorem Agree.resetTaken (h : Agree s b) : Machine.resetTaken { s with bus := b } = Machine.resetTaken s := by
  simp only [Machine.resetTaken, h.nextLevels]

theorem boundary_sim (h : Agree s b) : SimOutcome (boundary s) (boundary { s with bus := b }) := by
  obtain ⟨t, b', hp, hp', ht⟩ := poll_sim h
  rw [boundary, hp, boundary, hp', h.resetTaken]
  dsimp only
  split_ifs
  · exact simOutcome_next ht
  · exact fetchAndDispatch_sim ht

/-- Two states that agree have no host command to come: at the hold both stand still (60_exceptions R440 step 5). -/
theorem turn_sim (h : Agree s b) : SimOutcome (turn s) (turn { s with bus := b }) := by
  have hslot : passSlot { s with bus := b } = { s with bus := b } := passSlot_nil h.host
  rw [turn, turn, passSlot_nil h.host, hslot]
  dsimp only
  cases s.sched.ir with
  | none => exact boundary_sim h
  | some op =>
    dsimp only
    rw [show atHold { s with bus := b } = atHold s from rfl]
    split_ifs
    · simp only [holdForCommand, h.host]
      exact simOutcome_fault .commandHold
    · exact dispatchFetched_sim h op

theorem resetTurn_sim (h : Agree s b) : SimAt (resetTurn s) (resetTurn { s with bus := b }) :=
  simAt_bind' (resetSequence_sim h) fun _ _ h => simAt_some (h.book rfl rfl rfl)

/-- ONE STEP of two states that agree ends alike: in the same fault, or in states that agree again. -/
theorem step_sim (h : Agree s b) : SimOutcome (step s) (step { s with bus := b }) := by
  by_cases hh : s.sched.halted = true
  · rw [step_of_halted hh, step_of_halted (s := { s with bus := b }) hh]
    simp only [locked, h.host]
    exact simOutcome_fault .halted
  have hh' : s.sched.halted = false := by simpa using hh
  have hc : nextCommand s = none := nextCommand_of_host_nil h.host
  have hc' : nextCommand { s with bus := b } = none := nextCommand_of_host_nil h.host
  by_cases hm : s.sched.runMode = .resetting
  · rw [step_of_resetting hh' hc hm, step_of_resetting (s := { s with bus := b }) hh' hc' hm,
      passSlot_nil h.host, passSlot_nil (s := { s with bus := b }) h.host]
    exact simOutcome_complete (resetTurn_sim h)
  · rw [step_eq_turn hh' hc hm, step_eq_turn (s := { s with bus := b }) hh' hc' hm]
    exact turn_sim h

end

/-! ### The opcode fetched before a host write -/

/-- At the hold every command is accepted (60_exceptions R446). -/
theorem acceptedAt_of_atHold {s : State} (c : Command) (h : atHold s = true) : c.acceptedAt s = true := by
  cases c <;> simp [Command.acceptedAt, h]

/-- Two commands at the hold, the first a write: the write leaves the opcode held, so that the second is accepted at
the same hold (60_exceptions R446, log 28). -/
theorem step_write_then_command {s : State} {a : Addr} {v : Byte} {c : Command} (hh : s.sched.halted = false)
    (hhold : atHold s = true) (hq : s.host = [some (.writeByte a v), some c]) :
    step s = .next (memWrite a v { s with host := [some c] }) ∧
      step (memWrite a v { s with host := [some c] }) =
        complete (applyCommand c (memWrite a v { s with host := [] })) := by
  have hhold' : atHold (memWrite a v { s with host := [some c] }) = true := hhold
  exact ⟨step_of_accepted hh hq rfl, step_of_accepted hh rfl (acceptedAt_of_atHold c hhold')⟩

/-- What the execution of a held opcode answers, with step 7 of the main loop written out (60_exceptions R440). -/
theorem executeOpcode_eq (op : Byte) (s : State) : executeOpcode op s =
    match exec (decodeOpcode op) s.clearIr with
    | .next t =>
      if t.sched.halted = false ∧ t.sched.runMode = .singleStep then .next (t.setRunMode .waiting) else .next t
    | .fault r => .fault r
    | .refused r => .refused r := by
  rw [executeOpcode]
  cases exec (decodeOpcode op) s.clearIr with
  | next t => exact apply_ite _ _ _ _
  | fault r => rfl
  | refused r => rfl

/-- Outside `SingleStep` nothing follows the execution (60_exceptions R440 step 7). -/
theorem executeOpcode_of_not_singleStep {s : State} (op : Byte) (hm : s.sched.runMode ≠ .singleStep) :
    executeOpcode op s = exec (decodeOpcode op) s.clearIr := by
  rw [executeOpcode]
  cases he : exec (decodeOpcode op) s.clearIr with
  | fault r => rfl
  | refused r => rfl
  | next t =>
    have hmode : t.sched.runMode = s.sched.runMode := by rw [(exec_sched he).1]; rfl
    exact congrArg _ (if_neg fun h => hm (hmode.symm.trans h.2))

section
variable {s : State} {op : Byte} (hh : s.sched.halted = false) (hq : s.host = []) (hi : s.sched.ir = some op)
include hh hq hi

/-- With no command and an opcode held, a step in `SingleStep` executes that opcode, whatever lies at `PC` now
(10_state R42, 60_exceptions R440). -/
theorem step_of_held_singleStep (hm : s.sched.runMode = .singleStep) : step s = executeOpcode op s := by
  rw [step_of_held hh hq (by simp [hm]) hi (by simp [hm])]
  exact dispatchFetched_of_execute op (by simp [mustStop, hm]) (by simp [hm])

/-- With no command, an opcode held and no stop condition, a step in `Running` is `exec` of that opcode, whatever lies
at `PC` now (10_state R42, 60_exceptions R440). -/
theorem step_of_held_running (hm : s.sched.runMode = .running) (hdue : ¬ s.stopDue) :
    step s = exec (decodeOpcode op) s.clearIr := by
  have hstop : mustStop s = false := by
    rw [← Bool.not_eq_true, mustStop_iff]
    exact fun h => hdue h.2
  rw [step_of_held hh hq (by simp [hm]) hi (by simp [hm]), dispatchFetched_of_execute op hstop (by simp [hm])]
  exact executeOpcode_of_not_singleStep op (by simp [hm])

end

end Sys2Proof.Machine

open Sys2Proof Sys2Proof.Machine

/-- Settles O12: `step_sim` from the two states written as one with two bus units. -/
theorem architectureIsIndependentOfAcceleration : Obligations.ArchitectureIsIndependentOfAcceleration := by
  unfold Obligations.ArchitectureIsIndependentOfAcceleration
  intro s s' h
  obtain ⟨hs', hagree⟩ := h.agree
  rw [hs']
  obtain ⟨u, b, hu, hu', hnext⟩ | ⟨f, hf, hf'⟩ := step_sim hagree
  · rw [hu, hu']
    refine ⟨fun t ht => ?_, fun _ hr => nomatch hr⟩
    cases ht
    exact ⟨_, rfl, hnext⟩
  · rw [hf, hf']
    exact ⟨fun _ ht => (nomatch ht), fun _ hr => hr⟩

/-- Settles O56: the two commands are `step_write_then_command`; the third step executes the opcode that `ir` holds. -/
theorem prefetchedOpcodeIsWhatRuns : Obligations.PrefetchedOpcodeIsWhatRuns := by
  unfold Obligations.PrefetchedOpcodeIsWhatRuns
  intro s op v hh hm hi
  have hhold : atHold s = true := by simp [atHold, hm, hi]
  refine ⟨fun hq => ?step, fun hq => ?run⟩
  case step =>
    obtain ⟨hwrite, hcommand⟩ := step_write_then_command hh hhold hq
    refine ⟨_, _, hwrite, rfl, hcommand, rfl, ?_⟩
    exact Eq.trans (step_of_held_singleStep hh rfl hi rfl) (executeOpcode_eq op _)
  case run =>
    obtain ⟨hwrite, hcommand⟩ := step_write_then_command hh hhold hq
    exact ⟨_, _, hwrite, rfl, hcommand, rfl, step_of_held_running hh rfl hi rfl⟩
end
